-- ==== Sys2Proof/Word.lean ====
section
/-! DEFINITION. The word types of the block (00_scope.md R9, R13; 20_memory.md R100-R102) and the handle of a pool block. -/

namespace Sys2Proof

/-- The smallest addressable unit of the host window. -/
abbrev Byte := BitVec 8

/-- An audio sample, a signed 16-bit pattern (R9). -/
abbrev Sample := BitVec 16

/-- A register or a raw word: one 32-bit value (R9, R101). -/
abbrev Word := BitVec 32

/-- The index of a block in the pool (R19). -/
abbrev Handle := Nat

/-- A place that holds a block or NONE (R15). -/
abbrev Slot := Option Handle

end Sys2Proof
end

