-- ==== Sys2Proof/Config.lean ====
section
/-! DEFINITION. What an instance fixes (00_scope.md R7, R11) and the values the spec leaves free (93_implementation_defined.md). -/

namespace Sys2Proof

/-- The detector policy, fixed at build time (R7). -/
inductive Policy where
  /-- POLICY = 0: the energy (first-difference) detector. -/
  | energy
  /-- POLICY = 1: spectral centroid, which the spec gives no meaning (R21, R310). -/
  | centroid
  deriving DecidableEq, Repr

/-- ALLOC_CHOICE (R11, R110): which free block an allocation returns. -/
inductive AllocChoice where
  /-- The choice of the test vectors (95_test_vectors.md section 0): the lowest free index. -/
  | lowestFirst
  /-- Any free block: every allocation takes a free value, `Config.allocChoice`. -/
  | anyFree
  deriving DecidableEq, Repr

/-- The build-time parameters of R7, under the spec's own names. -/
structure Build where
  /-- Samples per audio block. -/
  L : Nat
  /-- Channel count. -/
  N : Nat
  /-- Blocks in the pool. -/
  NBLK : Nat
  /-- Delay-line capacity in blocks per channel. -/
  DCAP : Nat
  /-- Usable record-queue capacity in blocks. -/
  QCAP : Nat
  /-- Whether the channel multiplexer feeds one queue. -/
  MUXED : Bool
  /-- The detector policy. -/
  POLICY : Policy
  /-- BASE / 64 KiB: BASE is any 64 KiB-aligned address (R7, R117); no rule reads it. -/
  basePage : Nat
  /-- ALLOC_CHOICE. -/
  alloc : AllocChoice
  deriving DecidableEq, Repr

/-- H, the raw words per half-buffer (R7). -/
def Build.H (b : Build) : Nat := b.L * b.N

/-- NQ, the number of record queues (R7). -/
def Build.NQ (b : Build) : Nat := if b.MUXED then 1 else b.N

/-- Default instance P of 95_test_vectors.md section 0. DESIGN CHOICE (log 1, log 2): the build of `State.reset`. -/
def Build.instanceP : Build :=
  { L := 4, N := 2, NBLK := 16, DCAP := 4, QCAP := 2, MUXED := false, POLICY := .energy, basePage := 0,
    alloc := .lowestFirst }

/-- FREE VALUE (R11, R110, U4; log 2): the number that selects the free block of the k-th draw. -/
opaque Config.allocChoice : Nat → Nat

/-- FREE VALUE (R61, R67, U1, U2; log 6): a byte of RAW or POOLDATA after the given power-up, before anything wrote it;
arguments: the number of power cycles before, the offset in the host window. -/
opaque Config.powerOnByte : Nat → Nat → Byte

/-- FREE VALUE (R108, U3, U16; log 7): the k-th draw of a pool sample whose block no queue has lent. -/
opaque Config.unlentSample : Nat → Sample

/-- FREE VALUE (R299, S1; log 10): the noise estimate after an update with a window that is not positive, from
NEST, AVG and the window. No run reaches such a window (R46, R47, R81). -/
opaque Config.nestBadWindow : Word → Word → Word → Word

/-- FREE VALUE (R362; log 11): zext_32(NONE), what QREAD answers for a queued slot that holds no block. No run
reaches such a queue (R72). -/
opaque Config.noneWord : Word

end Sys2Proof
end

