-- ==== Sys2Proof/Syntax.lean ====
section
/-! DEFINITION. The instructions: one constructor per row of spec/opcode_table.json (30_encoding.md R147-R149). -/

namespace Sys2Proof

/-- One step of one agent, or one phase of the tick. `q` is the Q field (R141), `a` the byte offset A and `d` the
word DATA (R142, R143). -/
inductive Instr where
  -- CMD (R147)
  /-- NOP, R400. -/
  | nop
  /-- START, R401. -/
  | start
  /-- STOP, R402. -/
  | stop
  /-- DETRST, R403. -/
  | detrst
  /-- QAVAIL, R361. -/
  | qavail (q : Nat)
  /-- QREAD, R362. -/
  | qread (q : Nat)
  /-- QFREE, R363. -/
  | qfree (q : Nat)
  /-- QCLEAR, R364. -/
  | qclear (q : Nat)
  -- BUS (R148)
  /-- RD32, R420. -/
  | rd32 (a : BitVec 16)
  /-- RD16, R421. -/
  | rd16 (a : BitVec 16)
  /-- RD8, R422. -/
  | rd8 (a : BitVec 16)
  /-- WR32, R423. -/
  | wr32 (a : BitVec 16) (d : Word)
  /-- WR16, R424. -/
  | wr16 (a : BitVec 16) (d : Word)
  /-- WR8, R424. -/
  | wr8 (a : BitVec 16) (d : Word)
  -- DMA and EVT (R149)
  /-- DMA.WR, R200. -/
  | dmaWr (d : Word)
  /-- EV.HALF, R201. -/
  | evHalf
  /-- EV.FULL, R201. -/
  | evFull
  -- PHASE (R145)
  /-- ISR, R230. -/
  | isr
  /-- ACQ, R233. -/
  | acq
  /-- DL, R262. -/
  | dl
  /-- DET, R291. -/
  | det
  /-- MUX, R330. -/
  | mux
  /-- QPUSH, R360. -/
  | qpush
  deriving DecidableEq, Repr

end Sys2Proof
end

