-- ==== Sys2Proof/WellFormed.lean ====
section
/-! DEFINITION. Which instructions an encoding exists for: the Q field has four bits (30_encoding.md R141, R146). Every
other field is a bit vector of its own width. -/

namespace Sys2Proof

/-- The Q field holds the queue index (R141). -/
def fitsQ (q : Nat) : Bool := q < 16

/-- Whether the instruction has an encoding. -/
def Instr.wellFormed : Instr → Bool
  | .qavail q => fitsQ q
  | .qread q => fitsQ q
  | .qfree q => fitsQ q
  | .qclear q => fitsQ q
  | .nop | .start | .stop | .detrst => true
  | .rd32 _ | .rd16 _ | .rd8 _ => true
  | .wr32 _ _ | .wr16 _ _ | .wr8 _ _ => true
  | .dmaWr _ | .evHalf | .evFull => true
  | .isr | .acq | .dl | .det | .mux | .qpush => true

end Sys2Proof
end

