-- ==== Sys2Proof/Decode.lean ====
section
/-! DEFINITION. What arrives at the ports of the block, its decoder, total and rejecting by name, and after it the
encoder (30_encoding.md R140-R152). The port decides the format, never the bits (R140). -/

namespace Sys2Proof

/-- What can arrive next: one word at one port (R140), or a power cycle (70_reset_and_hazards.md R500). -/
inductive Input where
  /-- CMD: a command word, as a host WR32 to CMD carries it (R141). -/
  | cmd (w : Word)
  /-- BUS: a descriptor and the data word that a write carries (R142). -/
  | bus (desc : BitVec 19) (data : Word)
  /-- DMA: one cycle of the DMA port (R143). -/
  | dma (beat : BitVec 33)
  /-- EVT: the two completion-event lines (R144). -/
  | evt (lines : BitVec 2)
  /-- PHASE: the internal phase code (R145). -/
  | phase (code : BitVec 3)
  /-- Power-up, or the wake from deep sleep (R476, R500). -/
  | power
  deriving DecidableEq, Repr

/-- Why an input is no instruction, by name. -/
inductive Reject where
  /-- A CMD word of no row (R150). -/
  | reservedCmd
  /-- A BUS descriptor with SZ = 11; `write` is its W bit (R151). -/
  | reservedBus (write : Bool)
  /-- A DMA cycle with V = 0 (R143). -/
  | noBeat
  /-- EVT code 0b00 (R144). -/
  | noEvent
  /-- EVT code 0b11 (R151). -/
  | reservedEvt
  /-- PHASE code 0b110 or 0b111 (R151). -/
  | reservedPhase
  /-- Not a word of any format (R500). -/
  | powerCycle
  deriving DecidableEq, Repr

/-- A command that a CMD word selects (R147). -/
inductive Command where
  | nop
  | start
  | stop
  | detrst
  | qavail (q : Nat)
  | qread (q : Nat)
  | qfree (q : Nat)
  | qclear (q : Nat)
  deriving DecidableEq, Repr

/-- The instruction a command is. -/
def Command.toInstr : Command → Instr
  | .nop => .nop
  | .start => .start
  | .stop => .stop
  | .detrst => .detrst
  | .qavail q => .qavail q
  | .qread q => .qread q
  | .qfree q => .qfree q
  | .qclear q => .qclear q

/-- A word matches a row of the table iff it agrees with the row's match under its mask (R147). -/
def matchesRow (w mask pattern : Word) : Bool := w &&& mask == pattern

/-- The Q field, zext_4(CMD[19:16]) (R146). -/
def cmdQ (w : Word) : Nat := (w.extractLsb' 16 4).toNat

/-- The command a CMD word selects: full pattern only (R147, R150). -/
def decodeCmd (w : Word) : Option Command :=
  if matchesRow w 0xFFFFFFFF 0x00000000 then some .nop
  else if matchesRow w 0xFFFFFFFF 0x01000000 then some .start
  else if matchesRow w 0xFFFFFFFF 0x02000000 then some .stop
  else if matchesRow w 0xFFFFFFFF 0x03000000 then some .detrst
  else if matchesRow w 0xFFF0FFFF 0x10000000 then some (.qavail (cmdQ w))
  else if matchesRow w 0xFFF0FFFF 0x11000000 then some (.qread (cmdQ w))
  else if matchesRow w 0xFFF0FFFF 0x12000000 then some (.qfree (cmdQ w))
  else if matchesRow w 0xFFF0FFFF 0x13000000 then some (.qclear (cmdQ w))
  else none

/-- The access a BUS descriptor selects by W and SZ (R148, R151). -/
def decodeBus (desc : BitVec 19) (data : Word) : Except Reject Instr :=
  let a := desc.extractLsb' 0 16
  match desc.getLsbD 18, desc.getLsbD 17, desc.getLsbD 16 with
  | false, true, false => .ok (.rd32 a)
  | false, false, true => .ok (.rd16 a)
  | false, false, false => .ok (.rd8 a)
  | true, true, false => .ok (.wr32 a data)
  | true, false, true => .ok (.wr16 a data)
  | true, false, false => .ok (.wr8 a data)
  | w, true, true => .error (.reservedBus w)

/-- DMA.WR is a beat with V = 1 (R143, R149). -/
def decodeDma (beat : BitVec 33) : Except Reject Instr :=
  if beat.getLsbD 32 then .ok (.dmaWr (beat.extractLsb' 0 32)) else .error .noBeat

/-- The event lines, FULL in bit 1 and HALF in bit 0 (R144). -/
def decodeEvt (lines : BitVec 2) : Except Reject Instr :=
  match lines.getLsbD 1, lines.getLsbD 0 with
  | false, true => .ok .evHalf
  | true, false => .ok .evFull
  | false, false => .error .noEvent
  | true, true => .error .reservedEvt

/-- The phase codes (R145). -/
def decodePhase (code : BitVec 3) : Except Reject Instr :=
  match code.getLsbD 2, code.getLsbD 1, code.getLsbD 0 with
  | false, false, false => .ok .isr
  | false, false, true => .ok .acq
  | false, true, false => .ok .dl
  | false, true, true => .ok .det
  | true, false, false => .ok .mux
  | true, false, true => .ok .qpush
  | true, true, _ => .error .reservedPhase

/-- The decoder of all ports, total (R152). -/
def decode : Input → Except Reject Instr
  | .cmd w =>
    match decodeCmd w with
    | some c => .ok c.toInstr
    | none => .error .reservedCmd
  | .bus desc data => decodeBus desc data
  | .dma beat => decodeDma beat
  | .evt lines => decodeEvt lines
  | .phase code => decodePhase code
  | .power => .error .powerCycle

/-- A CMD word from OP and Q, with Z1 = Z0 = 0 (R141). -/
def cmdWord (op : BitVec 8) (q : Nat) : Word := op ++ 0#4 ++ BitVec.ofNat 4 q ++ 0#16

/-- A BUS descriptor from W and SZ (three bits) and A (R142). -/
def busDesc (wsz : BitVec 3) (a : BitVec 16) : BitVec 19 := wsz ++ a

/-- The word of an instruction at its port (R141-R149). A read carries no data: the model's data word of a read is 0. -/
def encode : Instr → Input
  | .nop => .cmd (cmdWord 0x00 0)
  | .start => .cmd (cmdWord 0x01 0)
  | .stop => .cmd (cmdWord 0x02 0)
  | .detrst => .cmd (cmdWord 0x03 0)
  | .qavail q => .cmd (cmdWord 0x10 q)
  | .qread q => .cmd (cmdWord 0x11 q)
  | .qfree q => .cmd (cmdWord 0x12 q)
  | .qclear q => .cmd (cmdWord 0x13 q)
  | .rd32 a => .bus (busDesc 0b010 a) 0
  | .rd16 a => .bus (busDesc 0b001 a) 0
  | .rd8 a => .bus (busDesc 0b000 a) 0
  | .wr32 a d => .bus (busDesc 0b110 a) d
  | .wr16 a d => .bus (busDesc 0b101 a) d
  | .wr8 a d => .bus (busDesc 0b100 a) d
  | .dmaWr d => .dma (1#1 ++ d)
  | .evHalf => .evt 0b01
  | .evFull => .evt 0b10
  | .isr => .phase 0b000
  | .acq => .phase 0b001
  | .dl => .phase 0b010
  | .det => .phase 0b011
  | .mux => .phase 0b100
  | .qpush => .phase 0b101

/-- The input whose bits are `w` in the numbering of spec/opcode_table.json, where a format is told by its length:
EVT has 2 bits and PHASE has 3. In whole bytes both have 8: the two codes that EVT drives, 0b01 and 0b10, are then
read as EVT, because no port carries a PHASE word (R140), and every other one as PHASE (log 15). The DATA word of a
BUS write lies above its descriptor. -/
def tableInput (nbits w : Nat) : Option Input :=
  if nbits = 2 then (if w < 4 then some (.evt (BitVec.ofNat 2 w)) else none)
  else if nbits = 3 then (if w < 8 then some (.phase (BitVec.ofNat 3 w)) else none)
  else if nbits = 8 then
    (if w = 1 ∨ w = 2 then some (.evt (BitVec.ofNat 2 w))
     else if w < 8 then some (.phase (BitVec.ofNat 3 w)) else none)
  else if 19 ≤ nbits ∧ nbits ≤ 24 then (if w < 2 ^ 19 then some (.bus (BitVec.ofNat 19 w) 0) else none)
  else if nbits = 32 then (if w < 2 ^ 32 then some (.cmd (BitVec.ofNat 32 w)) else none)
  else if 33 ≤ nbits ∧ nbits ≤ 40 then (if w < 2 ^ 33 then some (.dma (BitVec.ofNat 33 w)) else none)
  else if 51 ≤ nbits ∧ nbits ≤ 56 then
    (if w < 2 ^ 51 then some (.bus (BitVec.ofNat 19 w) (BitVec.ofNat 32 (w / 2 ^ 19))) else none)
  else none

/-- The instruction the decoder reads from a word of the opcode table. -/
def decodeTableWord (nbits w : Nat) : Option Instr :=
  match tableInput nbits w with
  | some i =>
    match decode i with
    | .ok ins => some ins
    | .error _ => none
  | none => none

end Sys2Proof
end

