-- ==== Sys2Proof/Machine/State.lean ====
section
/-! DEFINITION. The state of the block (10_state.md R40-R69), why a step can stop, and the state after reset (R80). -/

namespace Sys2Proof.Machine

/-- No operation of the block traps, faults or stops (60_exceptions.md R450): this type has no constructor, so nothing
raises a fault. -/
inductive Fault where
  deriving DecidableEq, Repr

/-- Why the model has no meaning for a step (60_exceptions.md R463). Every refusal is safe: the model stops where it
cannot say what the block does. -/
inductive Refusal where
  /-- Raised by `exec` for an instruction that has no meaning yet. Safe. -/
  | notModelled (mnemonic : String)
  /-- Raised by the DET phase, and by a tick that reaches it, in a POLICY = 1 build (R310, R463(a)). Safe. -/
  | spectralCentroidPolicy
  /-- Raised by `step` for EVT code 0b11, which the DMA agent never drives (R151, R463(c)). Safe. -/
  | reservedEventCode
  /-- Raised by `step` for PHASE codes 0b110 and 0b111, which are never issued (R151, U11). Safe. -/
  | reservedPhaseCode
  /-- Raised by `step` for an instance that violates a build constraint (R7, R331, R463(b)). Safe. -/
  | invalidBuild
  deriving DecidableEq, Repr

/-- EVKIND (R62): the kind of the pending completion. -/
inductive EvKind where
  /-- HALF (0). -/
  | half
  /-- FULL (1). -/
  | full
  deriving DecidableEq, Repr

/-- The errors and requests of R452; the cause code of each is its STATUS bit. -/
inductive Cause where
  /-- Bit 1. -/
  | mustclose
  /-- Bit 2. -/
  | poolfail
  /-- Bit 3. -/
  | qfull
  /-- Bit 4. -/
  | muxovr
  /-- Bit 5. -/
  | muxpool
  /-- Bit 6. -/
  | cfgerr
  /-- Bit 7. -/
  | buserr
  /-- Bit 8. -/
  | cmderr
  /-- Bit 9. -/
  | dmaovr
  deriving DecidableEq, Repr

/-- The sticky STATUS bits 1-9 (R52, R69). -/
structure Errors where
  mustclose : Bool
  poolfail : Bool
  qfull : Bool
  muxovr : Bool
  muxpool : Bool
  cfgerr : Bool
  buserr : Bool
  cmderr : Bool
  dmaovr : Bool
  deriving DecidableEq, Repr

/-- The configuration registers but NEST (R43-R51). CTRL and SHIFT keep only the bits that are not reserved. -/
structure Cfg where
  closeEv : Bool
  shift : BitVec 5
  thresh : Word
  win0 : Word
  win1 : Word
  extr : Word
  inhib : Word
  nrep : Word
  delay : Word
  deriving DecidableEq, Repr

/-- The global detector registers (R54). -/
structure Det where
  sigcount : Word
  wdog : Word
  detcnt : Word
  noisecnt : Word
  deriving DecidableEq, Repr

/-- The detector registers of one channel (R57). -/
structure Chan where
  nest : Word
  maxsq : Word
  avg : Word
  prev : Word
  deriving DecidableEq, Repr

/-- The error counters (R55). -/
structure Counters where
  allocfail : Word
  muxdrop : Word
  muxpoolfail : Word
  deriving DecidableEq, Repr

/-- One record queue (R66): a ring of QCAP+1 slots, its indices, its borrow flag and its drop counter. -/
structure Queue where
  slots : List Slot
  head : Nat
  tail : Nat
  borrow : Bool
  drop : Word
  deriving DecidableEq, Repr

/-- RAW and POOLDATA as bytes at their offsets in the host window, little-endian (R101, R104, R105; log 13): addresses
strictly rising, one entry for each byte that something has written since power-up (log 6). -/
abbrev Memory := List Host.Cell

/-- All the state of R80, and after it the model's own fields. -/
structure State where
  /-- The instance's parameters (R7); no step changes them (log 1). -/
  build : Build
  /-- RUN (R68). -/
  run : Bool
  /-- STATUS bits 1-9. -/
  err : Errors
  /-- CTRL, SHIFT, THRESH, WIN0, WIN1, EXTR, INHIB, NREP, DELAY. -/
  cfg : Cfg
  /-- SIGCOUNT, WDOG, DETCNT, NOISECNT. -/
  det : Det
  /-- NEST[c], MAXSQ[c], AVG[c], PREV[c]. -/
  chans : List Chan
  /-- ALLOCFAIL, MUXDROP, MUXPOOLFAIL. -/
  cnt : Counters
  /-- RESULT (R53). -/
  result : Word
  /-- ACQCUR[c] (R60). -/
  acqCur : List Slot
  /-- ACQOFF (R60). -/
  acqOff : Nat
  /-- RAW and POOLDATA (R61, R67). -/
  mem : Memory
  /-- p, read as DMAPOS (R61). -/
  dmaPos : Nat
  /-- EVPEND (R62). -/
  evPend : Bool
  /-- EVKIND (R62). -/
  evKind : EvKind
  /-- DLSLOT[c][k] (R63). -/
  dlSlot : List (List Slot)
  /-- DLHEAD (R63). -/
  dlHead : Nat
  /-- MUXIN[c] (R65). -/
  muxIn : List Slot
  /-- QSLOT[q], QHEAD[q], QTAIL[q], QBORROW[q], QDROP[q] (R66). -/
  queues : List Queue
  /-- FREE[h] (R67). -/
  free : List Bool
  /-- MODEL's own: the value the last read access returned to the host (R102; log 9). -/
  rdata : Word
  /-- MODEL's own: the live blocks of the tick, as the detector's read-only tap sees them (R203, R290; log 4). -/
  live : List Slot
  /-- MODEL's own: the blocks that one phase hands to the next (R203; log 4). -/
  flow : List Slot
  /-- MODEL's own: how many free values have been taken, by allocations and by pool reads alike (log 7, log 19). -/
  draws : Nat
  /-- MODEL's own: how many power cycles there have been (log 12). -/
  boots : Nat
  /-- MODEL's own: what the agents still send, in the order of their steps (R121; log 3). -/
  inputs : List Input
  deriving DecidableEq, Repr

/-- No sticky bit set. -/
def Errors.none : Errors :=
  { mustclose := false, poolfail := false, qfull := false, muxovr := false, muxpool := false, cfgerr := false,
    buserr := false, cmderr := false, dmaovr := false }

/-- The detector registers of a channel after reset or DETRST (R80, R403). -/
def Chan.zero : Chan := { nest := 0, maxsq := 0, avg := 0, prev := 0 }

/-- A queue after reset (R80). -/
def Queue.empty (b : Build) : Queue :=
  { slots := List.replicate (b.QCAP + 1) none, head := 0, tail := 0, borrow := false, drop := 0 }

/-- No block in any of n places. -/
def noBlocks (n : Nat) : List Slot := List.replicate n none

/-- The state after reset of an instance (R80, R500-R501). -/
def State.resetOf (b : Build) : State :=
  { build := b
    run := false
    err := Errors.none
    cfg := { closeEv := false, shift := 0, thresh := 0xFFFFFFFF, win0 := 1, win1 := 1, extr := 0, inhib := 0,
             nrep := 0, delay := 0 }
    det := { sigcount := 0, wdog := 0, detcnt := 0, noisecnt := 0 }
    chans := List.replicate b.N Chan.zero
    cnt := { allocfail := 0, muxdrop := 0, muxpoolfail := 0 }
    result := 0
    acqCur := noBlocks b.N
    acqOff := 0
    mem := []
    dmaPos := 0
    evPend := false
    evKind := .half
    dlSlot := List.replicate b.N (noBlocks b.DCAP)
    dlHead := 0
    muxIn := noBlocks b.N
    queues := List.replicate b.NQ (Queue.empty b)
    free := List.replicate b.NBLK true
    rdata := 0
    live := noBlocks b.N
    flow := noBlocks b.N
    draws := 0
    boots := 0
    inputs := [] }

/-- The state after reset of instance P (log 1). -/
def State.reset : State := State.resetOf Build.instanceP

end Sys2Proof.Machine
end

