-- ==== Sys2Proof/Machine/Flags.lean ====
section
/-! DEFINITION. The STATUS register: raising an error, clearing by writing 1, and the word the host reads (10_state.md
R52, R69; 60_exceptions.md R451, R452). The block has no other flag (R73). -/

namespace Sys2Proof.Machine

/-- The sticky bits with one of them set (R451). -/
def Errors.set (e : Errors) : Cause → Errors
  | .mustclose => { e with mustclose := true }
  | .poolfail => { e with poolfail := true }
  | .qfull => { e with qfull := true }
  | .muxovr => { e with muxovr := true }
  | .muxpool => { e with muxpool := true }
  | .cfgerr => { e with cfgerr := true }
  | .buserr => { e with buserr := true }
  | .cmderr => { e with cmderr := true }
  | .dmaovr => { e with dmaovr := true }

/-- One of the sticky bits. -/
def Errors.get (e : Errors) : Cause → Bool
  | .mustclose => e.mustclose
  | .poolfail => e.poolfail
  | .qfull => e.qfull
  | .muxovr => e.muxovr
  | .muxpool => e.muxpool
  | .cfgerr => e.cfgerr
  | .buserr => e.buserr
  | .cmderr => e.cmderr
  | .dmaovr => e.dmaovr

/-- The cause code: the index of the STATUS bit (R452). -/
def Cause.bit : Cause → Nat
  | .mustclose => 1
  | .poolfail => 2
  | .qfull => 3
  | .muxovr => 4
  | .muxpool => 5
  | .cfgerr => 6
  | .buserr => 7
  | .cmderr => 8
  | .dmaovr => 9

/-- A host write of `d` to STATUS: each sticky bit written as 1 is cleared, every other bit is ignored (R52, R423). -/
def Errors.clearWritten (e : Errors) (d : Word) : Errors :=
  { mustclose := e.mustclose && !d.getLsbD 1
    poolfail := e.poolfail && !d.getLsbD 2
    qfull := e.qfull && !d.getLsbD 3
    muxovr := e.muxovr && !d.getLsbD 4
    muxpool := e.muxpool && !d.getLsbD 5
    cfgerr := e.cfgerr && !d.getLsbD 6
    buserr := e.buserr && !d.getLsbD 7
    cmderr := e.cmderr && !d.getLsbD 8
    dmaovr := e.dmaovr && !d.getLsbD 9 }

/-- `raise E`: set the sticky bit; the step goes on (R14, R451). -/
def raise (c : Cause) (s : State) : State := { s with err := s.err.set c }

/-- A host write to STATUS (R52, R423). -/
def clearStatus (d : Word) (s : State) : State := { s with err := s.err.clearWritten d }

/-- ACQHAVE: the acquisition stage holds its current blocks (R60). -/
def acqHave (s : State) : Bool := (s.acqCur.getD 0 none).isSome

/-- ACQFULL: ACQOFF = L (R60). -/
def acqFull (s : State) : Bool := s.acqOff == s.build.L

/-- The STATUS word (R52, R420); bits 31:13 read 0. -/
def statusWord (s : State) : Word :=
  (BitVec.ofBoolListLE
    [s.run, s.err.mustclose, s.err.poolfail, s.err.qfull, s.err.muxovr, s.err.muxpool, s.err.cfgerr, s.err.buserr,
     s.err.cmderr, s.err.dmaovr, s.evPend, acqHave s, acqFull s]).setWidth 32

end Sys2Proof.Machine
end

