-- ==== Sys2Proof/Machine/Ops.lean ====
section
/-! DEFINITION. The named operations the instructions are made of: memory, the block pool, the record queues as data,
a refused access, a rejected input, fetching the next input, a power cycle, and the build constraints. -/

namespace Sys2Proof.Machine

-- Build constraints

/-- The constraints of R7 and R331. -/
def buildValid (b : Build) : Bool :=
  decide (1 ≤ b.L ∧ b.L ≤ 2048 ∧ 1 ≤ b.N ∧ b.N ≤ 16 ∧ 1 ≤ b.NBLK ∧ b.NBLK ≤ 65535 ∧ b.NBLK * 2 * b.L ≤ 32768 ∧
    1 ≤ b.DCAP ∧ b.DCAP ≤ 255 ∧ 1 ≤ b.QCAP ∧ b.QCAP ≤ 255 ∧ b.L * b.N ≤ 2048 ∧ (b.MUXED = true → b.L % b.N = 0))

-- Memory: RAW and POOLDATA

/-- The canonical form: addresses strictly rising. An unlisted byte has no value of its own, so no entry can equal what
an unlisted address reads as (log 6). -/
def Memory.wf : Memory → Bool
  | [] => true
  | [_] => true
  | (a, _) :: (b, w) :: t => decide (a < b) && Memory.wf ((b, w) :: t)

/-- The byte something has written to an address. -/
def memFind : Memory → Nat → Option Byte
  | [], _ => none
  | (k, v) :: t, a => if k = a then some v else memFind t a

/-- A byte written, the canonical form kept. -/
def memWrite : Memory → Nat → Byte → Memory
  | [], a, v => [(a, v)]
  | (k, w) :: t, a, v =>
    if a < k then (a, v) :: (k, w) :: t
    else if a = k then (a, v) :: t
    else (k, w) :: memWrite t a v

/-- A byte of RAW or POOLDATA; one that nothing has written since power-up holds a free value (U1, U2; log 6). -/
def readByte (s : State) (a : Nat) : Byte := (memFind s.mem a).getD (Config.powerOnByte s.boots a)

/-- Two bytes, little-endian (R101). -/
def readHalf (s : State) (a : Nat) : Sample := readByte s (a + 1) ++ readByte s a

/-- Four bytes, little-endian (R101; log 13). -/
def readFull (s : State) (a : Nat) : Word := readHalf s (a + 2) ++ readHalf s a

/-- A byte of RAW or POOLDATA written. -/
def writeByte (a : Nat) (v : Byte) (s : State) : State := { s with mem := memWrite s.mem a v }

/-- Two bytes written, little-endian (R101). -/
def writeHalf (a : Nat) (v : Sample) (s : State) : State :=
  writeByte (a + 1) (v.extractLsb' 8 8) (writeByte a (v.extractLsb' 0 8) s)

/-- Four bytes written, little-endian (R101; log 13). -/
def writeFull (a : Nat) (v : Word) (s : State) : State :=
  writeHalf (a + 2) (v.extractLsb' 16 16) (writeHalf a (v.extractLsb' 0 16) s)

/-- Where word j of RAW stands in the host window (R104). -/
def rawAddr (j : Nat) : Nat := 0x4000 + 4 * j

/-- Where linear sample g stands in the host window (R105). -/
def plinAddr (g : Nat) : Nat := 0x8000 + 2 * g

/-- RAW[j] (R61). -/
def rawWord (s : State) (j : Nat) : Word := readFull s (rawAddr j)

/-- `RAW[j] <- w` (R200). -/
def writeRaw (j : Nat) (w : Word) (s : State) : State := writeFull (rawAddr j) w s

/-- PLIN[g] (R105). -/
def plin (s : State) (g : Nat) : Sample := readHalf s (plinAddr g)

/-- S(h, i), sample i of block h (R106). -/
def poolSample (s : State) (h i : Nat) : Sample := plin s (h * s.build.L + i)

/-- `S(h, i) <- v` (R106). -/
def writeSample (h i : Nat) (v : Sample) (s : State) : State := writeHalf (plinAddr (h * s.build.L + i)) v s

-- The block pool

/-- POOLFREE: the number of free blocks (R56, R67). -/
def poolFree (s : State) : Nat := s.free.count true

/-- The free handles, lowest first (R110). -/
def freeHandles (s : State) : List Handle := (List.range s.free.length).filter fun h => s.free.getD h false

/-- `FREE[h] <- 0` (R110). -/
def takeBlock (h : Handle) (s : State) : State := { s with free := s.free.set h false }

/-- `Alloc()`: any free block by ALLOC_CHOICE, or NONE (R11, R110; log 2). DESIGN CHOICE (log 19): an `anyFree` choice is
numbered by `draws`, which reads of unlent samples advance too, so it may depend on host reads. -/
def allocBlock (s : State) : Option (Handle × State) :=
  match freeHandles s with
  | [] => none
  | h :: hs =>
    match s.build.alloc with
    | .lowestFirst => some (h, takeBlock h s)
    | .anyFree =>
      let k := (h :: hs).getD (Config.allocChoice s.draws % (hs.length + 1)) h
      some (k, { takeBlock k s with draws := s.draws + 1 })

/-- n allocations, one after another (R111). -/
def allocEach : Nat → State → List Handle × State
  | 0, s => ([], s)
  | n + 1, s =>
    match allocBlock s with
    | none => ([], s)
    | some (h, s') =>
      let r := allocEach n s'
      (h :: r.1, r.2)

/-- `AllocN(n)`: n blocks or none at all (R111). -/
def allocN (n : Nat) (s : State) : Option (List Handle × State) :=
  if poolFree s < n then none else some (allocEach n s)

/-- `Release(h)`; Release(NONE) does nothing (R112). -/
def release (o : Slot) (s : State) : State :=
  match o with
  | none => s
  | some h => { s with free := s.free.set h true }

/-- Release of several places, in order (R112). -/
def releaseAll (os : List Slot) (s : State) : State := os.foldl (fun s o => release o s) s

-- Places

/-- What place c of a list holds (R15). -/
def slotAt (xs : List Slot) (c : Nat) : Slot := xs.getD c none

/-- Whether each of the n places holds a block. -/
def allPresent (n : Nat) (xs : List Slot) : Bool := (List.range n).all fun c => (slotAt xs c).isSome

/-- The detector registers of channel c (R57). -/
def chanAt (s : State) (c : Nat) : Chan := s.chans.getD c Chan.zero

/-- A row of the delay line (R63). -/
def dlRow (s : State) (c : Nat) : List Slot := s.dlSlot.getD c (noBlocks s.build.DCAP)

-- Queues as data

/-- Queue q (R66). -/
def queueAt (s : State) (q : Nat) : Queue := s.queues.getD q (Queue.empty s.build)

/-- Queue q replaced. -/
def setQueue (q : Nat) (u : Queue) (s : State) : State := { s with queues := s.queues.set q u }

/-- The next index of a ring of QCAP+1 slots (R66, R360). -/
def nextIndex (b : Build) (k : Nat) : Nat := (k + 1) % (b.QCAP + 1)

/-- QAVAIL: (QHEAD - QTAIL) mod (QCAP+1) (R58, R361). -/
def queueCount (b : Build) (u : Queue) : Nat := (u.head + (b.QCAP + 1) - u.tail) % (b.QCAP + 1)

/-- The block at the tail, the oldest one (R362). -/
def queueOldest (u : Queue) : Slot := slotAt u.slots u.tail

/-- Whether some queue has lent the block to the host (R108; log 8). -/
def lent (s : State) (h : Handle) : Bool := s.queues.any fun u => u.borrow && queueOldest u == some h

-- Errors, refusals, commands' results

/-- `RESULT <- w` (R53). -/
def setResult (w : Word) (s : State) : State := { s with result := w }

/-- The value a read access returns (R102; log 9). -/
def answerRead (w : Word) (s : State) : State := { s with rdata := w }

/-- `Refuse` of a write: BUSERR and nothing else (R425). -/
def refuseWrite (s : State) : State := raise .buserr s

/-- `Refuse` of a read: BUSERR, and the read returns 0 (R425). -/
def refuseRead (s : State) : State := answerRead 0 (raise .buserr s)

/-- A reserved command word, or a queue index that is no queue: CMDERR and nothing else (R365, R411). -/
def refuseCommand (s : State) : State := raise .cmderr s

/-- A sample a host read of the pool window returns: the content of a lent block, else a free value (R108, U3; log 7).
DESIGN CHOICE (log 19): the draw advances `draws`, which also numbers the choices of an `anyFree` build. -/
def hostSample (s : State) (g : Nat) : Sample × State :=
  if lent s (g / s.build.L) then (plin s g, s)
  else (Config.unlentSample s.draws, { s with draws := s.draws + 1 })

-- Inputs

/-- What arrives next, and the state once it has arrived (R121; log 3). -/
def nextInput (s : State) : Option (Input × State) :=
  match s.inputs with
  | [] => none
  | i :: rest => some (i, { s with inputs := rest })

/-- Power-up or a wake from sleep: no state survives (R476, R500). What the agents still send, and the counters of
free values and power cycles, are not the block's (log 12). -/
def powerCycle (s : State) : State :=
  { State.resetOf s.build with draws := s.draws, boots := s.boots + 1, inputs := s.inputs }

/-- What an input does that is no instruction (R143, R144, R151, R411, R425, R500). -/
def rejected (r : Reject) (s : State) : Host.Outcome State Fault Refusal :=
  match r with
  | .reservedCmd => .next (refuseCommand s)
  | .reservedBus true => .next (refuseWrite s)
  | .reservedBus false => .next (refuseRead s)
  | .noBeat => .next s
  | .noEvent => .next s
  | .reservedEvt => .refused .reservedEventCode
  | .reservedPhase => .refused .reservedPhaseCode
  | .powerCycle => .next (powerCycle s)

/-- An input as the next one, and for a completion-event word also the pending completion that its service needs
(R201; log 3, log 5). -/
def placeInput (i : Input) (s : State) : State :=
  match decode i with
  | .ok .evHalf => { s with evPend := true, evKind := .half, inputs := i :: s.inputs }
  | .ok .evFull => { s with evPend := true, evKind := .full, inputs := i :: s.inputs }
  | _ => { s with inputs := i :: s.inputs }

end Sys2Proof.Machine
end

