-- ==== Sys2Proof/Machine/Operands.lean ====
section
/-! DEFINITION. The registers a bus access names: which register an offset is, its access type, the value it reads as,
which values are legal, and a configuration write (10_state.md R40-R59, R81; 46_host_control.md R420, R423, R426). -/

namespace Sys2Proof.Machine

/-- The host-visible registers (R40-R58); `c` is a channel, `q` a queue. -/
inductive Reg where
  | id
  | param0
  | param1
  | ctrl
  | status
  | cmd
  | result
  | shift
  | thresh
  | win0
  | win1
  | extr
  | inhib
  | nrep
  | delay
  | sigcount
  | wdog
  | detcnt
  | noisecnt
  | allocfail
  | muxdrop
  | muxpoolfail
  | poolfree
  | dmapos
  | dlhead
  | muxfill
  | nest (c : Nat)
  | maxsq (c : Nat)
  | avg (c : Nat)
  | prev (c : Nat)
  | qavail (q : Nat)
  | qdrop (q : Nat)
  | qptr (q : Nat)
  deriving DecidableEq, Repr

/-- The access types of 10_state.md section 2. -/
inductive Access where
  /-- RO: a write is refused. -/
  | readOnly
  /-- RW-cfg (R81). -/
  | config
  /-- STATUS (R52). -/
  | clearOnWrite
  /-- CMD (R53). -/
  | command
  deriving DecidableEq, Repr

/-- The register of channel c at offset k of its 16 bytes (R57). -/
def chanReg (c : Nat) : Nat → Option Reg
  | 0x0 => some (.nest c)
  | 0x4 => some (.maxsq c)
  | 0x8 => some (.avg c)
  | 0xC => some (.prev c)
  | _ => none

/-- The register of queue q at offset k of its 16 bytes; +0xC is reserved (R58). -/
def queueReg (q : Nat) : Nat → Option Reg
  | 0x0 => some (.qavail q)
  | 0x4 => some (.qdrop q)
  | 0x8 => some (.qptr q)
  | _ => none

/-- The global registers (R40-R56). -/
def globalReg : Nat → Option Reg
  | 0x000 => some .id
  | 0x004 => some .param0
  | 0x008 => some .param1
  | 0x00C => some .ctrl
  | 0x010 => some .status
  | 0x014 => some .cmd
  | 0x018 => some .result
  | 0x01C => some .shift
  | 0x020 => some .thresh
  | 0x024 => some .win0
  | 0x028 => some .win1
  | 0x02C => some .extr
  | 0x030 => some .inhib
  | 0x034 => some .nrep
  | 0x038 => some .delay
  | 0x03C => some .sigcount
  | 0x040 => some .wdog
  | 0x044 => some .detcnt
  | 0x048 => some .noisecnt
  | 0x04C => some .allocfail
  | 0x050 => some .muxdrop
  | 0x054 => some .muxpoolfail
  | 0x058 => some .poolfree
  | 0x05C => some .dmapos
  | 0x060 => some .dlhead
  | 0x064 => some .muxfill
  | _ => none

/-- The register at an offset; none if the offset is unmapped (R57-R59, R117). -/
def regAt (b : Build) (a : Nat) : Option Reg :=
  if a < 0x100 then globalReg a
  else if a < 0x200 then
    (if (a - 0x100) / 16 < b.N then chanReg ((a - 0x100) / 16) (a % 16) else none)
  else if a < 0x300 then
    (if (a - 0x200) / 16 < b.NQ then queueReg ((a - 0x200) / 16) (a % 16) else none)
  else none

/-- The access type of each register. -/
def Reg.access : Reg → Access
  | .ctrl | .shift | .thresh | .win0 | .win1 | .extr | .inhib | .nrep | .delay => .config
  | .nest _ => .config
  | .status => .clearOnWrite
  | .cmd => .command
  | .id | .param0 | .param1 | .result => .readOnly
  | .sigcount | .wdog | .detcnt | .noisecnt => .readOnly
  | .allocfail | .muxdrop | .muxpoolfail => .readOnly
  | .poolfree | .dmapos | .dlhead | .muxfill => .readOnly
  | .maxsq _ | .avg _ | .prev _ => .readOnly
  | .qavail _ | .qdrop _ | .qptr _ => .readOnly

/-- PARAM0 (R41). -/
def param0Word (b : Build) : Word :=
  BitVec.ofNat 32 (b.L + b.N * 2 ^ 16 + b.MUXED.toNat * 2 ^ 24 + (if b.POLICY = .centroid then 2 ^ 25 else 0))

/-- PARAM1 (R42). -/
def param1Word (b : Build) : Word := BitVec.ofNat 32 (b.NBLK + b.DCAP * 2 ^ 16 + b.QCAP * 2 ^ 24)

/-- MUXFILL: bit c is 1 iff MUXIN[c] holds a block (R56). -/
def muxFillWord (s : State) : Word :=
  (BitVec.ofBoolListLE ((List.range s.build.N).map fun c => (slotAt s.muxIn c).isSome)).setWidth 32

/-- QPTR[q] (R58). -/
def qptrWord (u : Queue) : Word := BitVec.ofNat 32 (u.head + u.tail * 2 ^ 8 + u.borrow.toNat * 2 ^ 16)

/-- The value a register reads as (R40-R58, R420). -/
def readReg (s : State) : Reg → Word
  | .id => 0x4D535201
  | .param0 => param0Word s.build
  | .param1 => param1Word s.build
  | .ctrl => if s.cfg.closeEv then 2 else 0
  | .status => statusWord s
  | .cmd => 0
  | .result => s.result
  | .shift => s.cfg.shift.setWidth 32
  | .thresh => s.cfg.thresh
  | .win0 => s.cfg.win0
  | .win1 => s.cfg.win1
  | .extr => s.cfg.extr
  | .inhib => s.cfg.inhib
  | .nrep => s.cfg.nrep
  | .delay => s.cfg.delay
  | .sigcount => s.det.sigcount
  | .wdog => s.det.wdog
  | .detcnt => s.det.detcnt
  | .noisecnt => s.det.noisecnt
  | .allocfail => s.cnt.allocfail
  | .muxdrop => s.cnt.muxdrop
  | .muxpoolfail => s.cnt.muxpoolfail
  | .poolfree => BitVec.ofNat 32 (poolFree s)
  | .dmapos => BitVec.ofNat 32 s.dmaPos
  | .dlhead => BitVec.ofNat 32 s.dlHead
  | .muxfill => muxFillWord s
  | .nest c => (chanAt s c).nest
  | .maxsq c => (chanAt s c).maxsq
  | .avg c => (chanAt s c).avg
  | .prev c => (chanAt s c).prev
  | .qavail q => BitVec.ofNat 32 (queueCount s.build (queueAt s q))
  | .qdrop q => (queueAt s q).drop
  | .qptr q => qptrWord (queueAt s q)

/-- Legal(register, D); a signed register reads D as sext_32 (R146, R426). Only configuration registers are asked. -/
def legalValue (r : Reg) (d : Word) : Bool :=
  match r with
  | .ctrl => d &&& 0xFFFFFFFD == 0
  | .shift => d &&& 0xFFFFFFE0 == 0
  | .win0 | .win1 => decide (1 ≤ d.toInt)
  | .extr | .inhib | .nrep => decide (0 ≤ d.toInt)
  | .thresh | .delay | .nest _ => true
  | .id | .param0 | .param1 | .status | .cmd | .result => false
  | .sigcount | .wdog | .detcnt | .noisecnt => false
  | .allocfail | .muxdrop | .muxpoolfail | .poolfree | .dmapos | .dlhead | .muxfill => false
  | .maxsq _ | .avg _ | .prev _ | .qavail _ | .qdrop _ | .qptr _ => false

/-- `NEST[c] <- d`. -/
def setNest (c : Nat) (d : Word) (s : State) : State :=
  { s with chans := s.chans.set c { chanAt s c with nest := d } }

/-- `register <- D` of a configuration register (R423). No other register is written this way. -/
def writeConfig (r : Reg) (d : Word) (s : State) : State :=
  match r with
  | .ctrl => { s with cfg := { s.cfg with closeEv := d.getLsbD 1 } }
  | .shift => { s with cfg := { s.cfg with shift := d.extractLsb' 0 5 } }
  | .thresh => { s with cfg := { s.cfg with thresh := d } }
  | .win0 => { s with cfg := { s.cfg with win0 := d } }
  | .win1 => { s with cfg := { s.cfg with win1 := d } }
  | .extr => { s with cfg := { s.cfg with extr := d } }
  | .inhib => { s with cfg := { s.cfg with inhib := d } }
  | .nrep => { s with cfg := { s.cfg with nrep := d } }
  | .delay => { s with cfg := { s.cfg with delay := d } }
  | .nest c => setNest c d s
  | .id | .param0 | .param1 | .status | .cmd | .result => s
  | .sigcount | .wdog | .detcnt | .noisecnt => s
  | .allocfail | .muxdrop | .muxpoolfail | .poolfree | .dmapos | .dlhead | .muxfill => s
  | .maxsq _ | .avg _ | .prev _ | .qavail _ | .qdrop _ | .qptr _ => s

/-- A host write to a configuration register: performed only while RUN = 0 and with a legal value, else CFGERR (R81). -/
def hostConfigWrite (r : Reg) (d : Word) (s : State) : State :=
  if s.run = false ∧ legalValue r d = true then writeConfig r d s else raise .cfgerr s

end Sys2Proof.Machine
end

