-- ==== Sys2Proof/Machine/Queues.lean ====
section
/-! DEFINITION. The record queues: QPUSH and the commands QAVAIL, QREAD, QFREE, QCLEAR (45_record_queue.md). -/

namespace Sys2Proof.Machine

-- The producer side

/-- Whether the ring has no room: QAVAIL = QCAP (R360). -/
def queueFull (b : Build) (u : Queue) : Bool := nextIndex b u.head == u.tail

/-- The incoming block dropped: released, counted, QFULL (R360). -/
def dropPush (q : Nat) (h : Handle) (s : State) : State :=
  raise .qfull
    (setQueue q { queueAt s q with drop := (queueAt s q).drop + 1 } (release (some h) s))

/-- The incoming block stored at the head (R360). -/
def storePush (q : Nat) (h : Handle) (s : State) : State :=
  setQueue q
    { queueAt s q with
      slots := (queueAt s q).slots.set (queueAt s q).head (some h)
      head := nextIndex s.build (queueAt s q).head } s

/-- `QPush(q, h)` (R360). -/
def queuePush (q : Nat) (h : Handle) (s : State) : State :=
  if queueFull s.build (queueAt s q) then dropPush q h s else storePush q h s

/-- The queue the sink gives channel c's block to (R205): queue c, or the one queue of a MUXED build. -/
def sinkQueue (b : Build) (c : Nat) : Nat := if b.MUXED then 0 else c

/-- One QPUSH phase: the first block in transit, by channel, is pushed and leaves the transit; with none in transit
nothing happens, for QPush is never called with NONE (R203, R360; log 4). -/
def pushPhase (s : State) : State :=
  match (List.range s.build.N).find? fun c => (slotAt s.flow c).isSome with
  | none => s
  | some c =>
    match slotAt s.flow c with
    | none => s
    | some h => queuePush (sinkQueue s.build c) h { s with flow := s.flow.set c none }

/-- QPUSH (R360). -/
def execQpush (s : State) : Host.Outcome State Fault Refusal := .next (pushPhase s)

-- The consumer side

/-- A queue command: performed for a queue of the build, else CMDERR (R365). -/
def onQueue (q : Nat) (f : State → State) (s : State) : Host.Outcome State Fault Refusal :=
  if q < s.build.NQ then .next (f s) else .next (refuseCommand s)

/-- The count of queued blocks (R361). -/
def availResult (q : Nat) (s : State) : State :=
  setResult (BitVec.ofNat 32 (queueCount s.build (queueAt s q))) s

/-- zext_32 of the handle in a slot (R362); of NONE, a free value (log 11). -/
def handleWord (o : Slot) : Word :=
  match o with
  | some h => BitVec.ofNat 32 h
  | none => Config.noneWord

/-- The borrow (R362): null if a block is lent already or none is queued. -/
def borrowOldest (q : Nat) (s : State) : State :=
  if (queueAt s q).borrow = true ∨ (queueAt s q).head = (queueAt s q).tail then setResult 0xFFFFFFFF s
  else setResult (handleWord (queueOldest (queueAt s q))) (setQueue q { queueAt s q with borrow := true } s)

/-- The return of the lent block (R363). -/
def returnLent (q : Nat) (s : State) : State :=
  if (queueAt s q).borrow = false then setResult 0 s
  else
    setResult 1
      (setQueue q
        { queueAt s q with
          slots := (queueAt s q).slots.set (queueAt s q).tail none
          tail := nextIndex s.build (queueAt s q).tail
          borrow := false }
        (release (queueOldest (queueAt s q)) s))

/-- The indices of the queued blocks, oldest first (R364, R72). -/
def queuedIndices (b : Build) (u : Queue) : List Nat :=
  (List.range (queueCount b u)).map fun k => (u.tail + k) % (b.QCAP + 1)

/-- The drain (R364); QDROP is kept. -/
def drainQueue (q : Nat) (s : State) : State :=
  let u := queueAt s q
  let js := queuedIndices s.build u
  setResult (BitVec.ofNat 32 (queueCount s.build u))
    (setQueue q
      { slots := js.foldl (fun xs j => xs.set j none) u.slots, head := 0, tail := 0, borrow := false, drop := u.drop }
      (releaseAll (js.map (slotAt u.slots)) s))

/-- QAVAIL (R361, R365). -/
def execQavail (q : Nat) (s : State) : Host.Outcome State Fault Refusal := onQueue q (availResult q) s

/-- QREAD (R362, R365). -/
def execQread (q : Nat) (s : State) : Host.Outcome State Fault Refusal := onQueue q (borrowOldest q) s

/-- QFREE (R363, R365). -/
def execQfree (q : Nat) (s : State) : Host.Outcome State Fault Refusal := onQueue q (returnLent q) s

/-- QCLEAR (R364, R365). -/
def execQclear (q : Nat) (s : State) : Host.Outcome State Fault Refusal := onQueue q (drainQueue q) s

end Sys2Proof.Machine
end

