-- ==== Sys2Proof/Machine/Session.lean ====
section
/-! DEFINITION. The session commands NOP, START, STOP, DETRST (46_host_control.md R400-R403). -/

namespace Sys2Proof.Machine

/-- NOP (R400). -/
def execNop (s : State) : Host.Outcome State Fault Refusal := .next s

/-- Every place of the delay line and the multiplexer, in START's order (R401). -/
def sessionPlaces (s : State) : List Slot :=
  (List.range s.build.N).flatMap fun c =>
    (List.range s.build.DCAP).map (slotAt (dlRow s c)) ++ [slotAt s.muxIn c]

/-- A session begins with an empty delay line and multiplexer (R401). -/
def beginSession (s : State) : State :=
  { releaseAll (sessionPlaces s) s with
    dlSlot := List.replicate s.build.N (noBlocks s.build.DCAP)
    muxIn := noBlocks s.build.N
    dlHead := 0
    run := true
    result := 1 }

/-- START (R401). -/
def execStart (s : State) : Host.Outcome State Fault Refusal :=
  if s.run then .next (setResult 0 s) else .next (beginSession s)

/-- STOP (R402). -/
def execStop (s : State) : Host.Outcome State Fault Refusal :=
  .next { s with result := if s.run then 1 else 0, run := false }

/-- DETRST (R403). -/
def execDetrst (s : State) : Host.Outcome State Fault Refusal :=
  .next
    { s with
      det := { sigcount := -s.cfg.inhib, wdog := 0, detcnt := 0, noisecnt := 0 }
      chans := List.replicate s.build.N Chan.zero
      result := 1 }

end Sys2Proof.Machine
end

