-- ==== Sys2Proof/Machine/Bus.lean ====
section
/-! DEFINITION. The host's bus accesses (46_host_control.md R420-R425) and the dispatch of a command word (R410). -/

namespace Sys2Proof.Machine

-- Reads

/-- A performed read of a register (R420). -/
def readRegister (a : Nat) (s : State) : State :=
  match regAt s.build a with
  | some r => answerRead (readReg s r) s
  | none => refuseRead s

/-- A 4-byte read of the raw window (R104, R420). -/
def readRawWindow (a : Nat) (s : State) : State :=
  if (a - 0x4000) / 4 < 2 * s.build.H then answerRead (rawWord s ((a - 0x4000) / 4)) s else refuseRead s

/-- Two samples of the pool window, the lower one in bits 15:0 (R101, R105, R108). -/
def readSamplePair (g : Nat) (s : State) : State :=
  let lo := hostSample s g
  let hi := hostSample lo.2 (g + 1)
  answerRead (hi.1 ++ lo.1) hi.2

/-- One sample of the pool window, zero-extended (R102, R105, R108). -/
def readSampleOne (g : Nat) (s : State) : State :=
  let x := hostSample s g
  answerRead (x.1.setWidth 32) x.2

/-- A 4-byte read of the pool window (R105, R420). -/
def readPoolWindow (a : Nat) (s : State) : State :=
  if (a - 0x8000) / 2 + 1 < s.build.NBLK * s.build.L then readSamplePair ((a - 0x8000) / 2) s else refuseRead s

/-- RD32 (R420). -/
def execRd32 (a : BitVec 16) (s : State) : Host.Outcome State Fault Refusal :=
  if a.toNat % 4 ≠ 0 then .next (refuseRead s)
  else if a.toNat < 0x4000 then .next (readRegister a.toNat s)
  else if a.toNat < 0x8000 then .next (readRawWindow a.toNat s)
  else .next (readPoolWindow a.toNat s)

/-- RD16 (R421). -/
def execRd16 (a : BitVec 16) (s : State) : Host.Outcome State Fault Refusal :=
  if 0x8000 ≤ a.toNat ∧ a.toNat % 2 = 0 ∧ (a.toNat - 0x8000) / 2 < s.build.NBLK * s.build.L then
    .next (readSampleOne ((a.toNat - 0x8000) / 2) s)
  else .next (refuseRead s)

/-- RD8: every 1-byte read is refused (R422). -/
def execRd8 (_a : BitVec 16) (s : State) : Host.Outcome State Fault Refusal := .next (refuseRead s)

-- Writes

/-- The command of a word written to CMD; a word of no row is CMDERR (R410, R411). -/
def runCommandWord (w : Word) (s : State) : Host.Outcome State Fault Refusal :=
  match decodeCmd w with
  | some .nop => execNop s
  | some .start => execStart s
  | some .stop => execStop s
  | some .detrst => execDetrst s
  | some (.qavail q) => execQavail q s
  | some (.qread q) => execQread q s
  | some (.qfree q) => execQfree q s
  | some (.qclear q) => execQclear q s
  | none => .next (refuseCommand s)

/-- A 4-byte write to a mapped register (R423). -/
def writeRegister (r : Reg) (d : Word) (s : State) : Host.Outcome State Fault Refusal :=
  match r.access with
  | .clearOnWrite => .next (clearStatus d s)
  | .command => runCommandWord d s
  | .config => .next (hostConfigWrite r d s)
  | .readOnly => .next (refuseWrite s)

/-- WR32 (R423). -/
def execWr32 (a : BitVec 16) (d : Word) (s : State) : Host.Outcome State Fault Refusal :=
  if a.toNat % 4 ≠ 0 ∨ 0x4000 ≤ a.toNat then .next (refuseWrite s)
  else
    match regAt s.build a.toNat with
    | some r => writeRegister r d s
    | none => .next (refuseWrite s)

/-- WR16: every 2-byte write is refused (R424). -/
def execWr16 (_a : BitVec 16) (_d : Word) (s : State) : Host.Outcome State Fault Refusal := .next (refuseWrite s)

/-- WR8: every 1-byte write is refused (R424). -/
def execWr8 (_a : BitVec 16) (_d : Word) (s : State) : Host.Outcome State Fault Refusal := .next (refuseWrite s)

end Sys2Proof.Machine
end

