-- ==== Sys2Proof/Machine/Acquisition.lean ====
section
/-! DEFINITION. The acquisition source: the ISR demultiplex and the acquisition update (41_acquisition.md). -/

namespace Sys2Proof.Machine

/-- Conv(w) = low16(asr(w, SHIFT)) (R232). -/
def convSample (shift : BitVec 5) (w : Word) : Sample := (w.sshiftRight shift.toNat).setWidth 16

/-- The first word of the half that is not being written (R231). -/
def halfBase (s : State) : Nat := if s.dmaPos < s.build.H then s.build.H else 0

/-- The raw word of sample i of channel c in the finished half: the half is frame-interleaved (R230, R234). -/
def rawIndex (s : State) (c i : Nat) : Nat := halfBase s + i * s.build.N + c

/-- One sample copied into block h (R230). -/
def demuxSample (c : Nat) (h : Handle) (s : State) (i : Nat) : State :=
  writeSample h i (convSample s.cfg.shift (rawWord s (rawIndex s c i))) s

/-- One channel's current block filled (R230). -/
def demuxChannel (s : State) (c : Nat) : State :=
  match slotAt s.acqCur c with
  | none => s
  | some h => (List.range s.build.L).foldl (demuxSample c h) s

/-- The ISR phase (R230); without current blocks the half is discarded (R237). -/
def isrPhase (s : State) : State :=
  if acqHave s then { (List.range s.build.N).foldl demuxChannel s with acqOff := s.build.L } else s

/-- A failed acquisition allocation: counted, POOLFAIL (R236). -/
def allocFailed (s : State) : State :=
  raise .poolfail { s with cnt := { s.cnt with allocfail := s.cnt.allocfail + 1 } }

/-- The current slots after an allocation, and its failure recorded (R233, R236). -/
def renewCurrent (s : State) : State :=
  match allocN s.build.N s with
  | some (hs, s') => { s' with acqCur := hs.map some, acqOff := 0 }
  | none => allocFailed s

/-- The acquisition update (R233, R235): the filled blocks, or none, go on their way as the live blocks of the tick. -/
def acqPhase (s : State) : State :=
  if acqHave s = true ∧ s.acqOff = s.build.L then
    { renewCurrent { s with acqCur := noBlocks s.build.N, acqOff := 0 } with live := s.acqCur, flow := s.acqCur }
  else if acqHave s = false then
    { renewCurrent s with live := noBlocks s.build.N, flow := noBlocks s.build.N }
  else { s with live := noBlocks s.build.N, flow := noBlocks s.build.N }

/-- ISR (R230). -/
def execIsr (s : State) : Host.Outcome State Fault Refusal := .next (isrPhase s)

/-- ACQ (R233). -/
def execAcq (s : State) : Host.Outcome State Fault Refusal := .next (acqPhase s)

end Sys2Proof.Machine
end

