-- ==== Sys2Proof/Machine/DelayLine.lean ====
section
/-! DEFINITION. The delay line (42_delay_line.md). -/

namespace Sys2Proof.Machine

/-- DELAY <= 0 or DELAY >= DCAP (R261). -/
def passThrough (s : State) : Bool :=
  decide (s.cfg.delay.toInt ≤ 0 ∨ (s.build.DCAP : Int) ≤ s.cfg.delay.toInt)

/-- The advancing head (R262). -/
def dlNextHead (s : State) : Nat := (s.dlHead + 1) % s.build.DCAP

/-- The slot DELAY behind the advancing head, for 0 < DELAY < DCAP (R262). -/
def dlOutIndex (s : State) : Nat := (dlNextHead s + s.build.DCAP - s.cfg.delay.toNat) % s.build.DCAP

/-- Row c with the tick's block stored at the advancing head (R262). -/
def dlStored (s : State) (c : Nat) : List Slot := (dlRow s c).set (dlNextHead s) (slotAt s.flow c)

/-- The delay-line update (R262): it takes the blocks in transit and hands on those of DELAY ticks before. -/
def dlPhase (s : State) : State :=
  if passThrough s then s
  else
    let cs := List.range s.build.N
    { releaseAll (cs.map fun c => slotAt (dlRow s c) (dlNextHead s)) s with
      dlHead := dlNextHead s
      dlSlot := cs.map fun c => (dlStored s c).set (dlOutIndex s) none
      flow := cs.map fun c => slotAt (dlStored s c) (dlOutIndex s) }

/-- DL (R262). -/
def execDl (s : State) : Host.Outcome State Fault Refusal := .next (dlPhase s)

end Sys2Proof.Machine
end

