-- ==== Sys2Proof/Machine/Detector.lean ====
section
/-! DEFINITION. The event detector (43_detector.md). -/

namespace Sys2Proof.Machine

-- Statistics

/-- What the loop of R293 carries: the last sample, the maximum and the sum of the squared differences. -/
structure StatAcc where
  prev : Int
  mx : Nat
  sum : Nat
  deriving DecidableEq, Repr

/-- One sample of the loop (R293). -/
def statSample (a : StatAcc) (x : Sample) : StatAcc :=
  let e := ((x.toInt - a.prev) * (x.toInt - a.prev)).toNat
  { prev := x.toInt, mx := max a.mx e, sum := a.sum + e }

/-- The samples of block h (R106). -/
def blockSamples (s : State) (h : Handle) : List Sample := (List.range s.build.L).map (poolSample s h)

/-- Stats of one channel over a block of `len` samples (R293, R294). -/
def blockStats (len : Nat) (xs : List Sample) (ch : Chan) : Chan :=
  let a := xs.foldl statSample { prev := ch.prev.toInt, mx := 0, sum := 0 }
  { ch with
    prev := BitVec.ofInt 32 a.prev
    maxsq := BitVec.ofNat 32 a.mx
    avg := BitVec.ofNat 32 (a.sum / len) }

/-- Channel c after the statistics of its live block; an absent channel is unchanged (R291, R296). -/
def chanStats (s : State) (c : Nat) : Chan :=
  match slotAt s.live c with
  | none => chanAt s c
  | some h => blockStats s.build.L (blockSamples s h) (chanAt s c)

/-- A channel detects iff MAXSQ > THRESH * NEST, exactly (R295). -/
def chanDetects (thresh : Word) (ch : Chan) : Bool := decide (thresh.toInt * (ch.nest.toNat : Int) < (ch.maxsq.toNat : Int))

/-- The combined detection over the present channels (R296). -/
def anyDetects (s : State) : Bool :=
  (List.range s.build.N).any fun c => (slotAt s.live c).isSome && chanDetects s.cfg.thresh (chanStats s c)

-- Counters

/-- What the counter steps of R291 give: the registers, and what they decide. -/
structure DetStep where
  det : Det
  active : Bool
  mustclose : Bool
  noise : Bool
  deriving DecidableEq, Repr

/-- Within the guard window: -INHIB < SIGCOUNT <= 0 (R297). -/
def inGuard (cfg : Cfg) (d : Det) : Bool :=
  decide (-cfg.inhib.toInt < d.sigcount.toInt ∧ d.sigcount.toInt ≤ 0)

/-- The re-arm of R297. -/
def rearmed (cfg : Cfg) (d : Det) (detected : Bool) : Det :=
  if detected && !inGuard cfg d then { d with sigcount := cfg.extr, wdog := 0 } else d

/-- active (R298), tested after the re-arm. -/
def isActive (d : Det) : Bool := decide (0 < d.sigcount.toInt)

/-- max(SIGCOUNT - 1, -INHIB) (R300). -/
def decayed (cfg : Cfg) (d : Det) : Int := max (d.sigcount.toInt - 1) (-cfg.inhib.toInt)

/-- The counter steps, from the re-arm on (R297-R304). -/
def detStep (cfg : Cfg) (d : Det) (detected : Bool) : DetStep :=
  let r := rearmed cfg d detected
  let active := isActive r
  let sig := decayed cfg r
  let clamped := decide (sig = -cfg.inhib.toInt)
  let wdog := if clamped then r.wdog + 1 else r.wdog
  let due := clamped && decide (0 < cfg.nrep.toInt ∧ cfg.nrep.toInt ≤ (wdog.toNat : Int))
  let noise := due && !active
  { det :=
      { sigcount := BitVec.ofInt 32 sig
        wdog := if due then 0 else wdog
        detcnt := if active then r.detcnt + 1 else r.detcnt
        noisecnt := if noise then r.noisecnt + 1 else r.noisecnt }
    active := active
    mustclose := decide (r.sigcount.toInt = 1 ∧ sig = 0) && cfg.closeEv
    noise := noise }

-- Noise estimate

/-- NEST + trunc((AVG - NEST) / w) for a positive window (R299); otherwise a free value (S1; log 10). -/
def nestUpdate (nest avg w : Word) : Word :=
  if 0 < w.toInt then BitVec.ofInt 32 ((nest.toNat : Int) + ((avg.toNat : Int) - (nest.toNat : Int)).tdiv w.toInt)
  else Config.nestBadWindow nest avg w

/-- The window of R298. -/
def noiseWindow (cfg : Cfg) (active : Bool) : Word := if active then cfg.win1 else cfg.win0

/-- Channel c after the tick (R299); an absent channel is unchanged (R296). -/
def chanAfter (s : State) (active : Bool) (c : Nat) : Chan :=
  match slotAt s.live c with
  | none => chanAt s c
  | some _ =>
    { chanStats s c with
      nest := nestUpdate (chanStats s c).nest (chanStats s c).avg (noiseWindow s.cfg active) }

-- The phase

/-- Every block in transit released (R292, R305). -/
def discardFlow (s : State) : State := { releaseAll s.flow s with flow := noBlocks s.build.N }

/-- MUSTCLOSE raised if the counters say so (R303). -/
def raiseMustclose (b : Bool) (s : State) : State := if b then raise .mustclose s else s

/-- The detector registers after the tick (R291). -/
def detRegisters (k : DetStep) (s : State) : State :=
  raiseMustclose k.mustclose
    { s with det := k.det, chans := (List.range s.build.N).map (chanAfter s k.active) }

/-- The detector of a tick with THRESH >= 0 (R291, R305). -/
def detUpdate (s : State) : State :=
  let k := detStep s.cfg s.det (anyDetects s)
  if k.active || k.noise then detRegisters k s else discardFlow (detRegisters k s)

/-- The DET phase: no meaning with POLICY = 1 (R310), disabled with THRESH < 0 (R292). -/
def detPhase (s : State) : Host.Outcome State Fault Refusal :=
  match s.build.POLICY with
  | .centroid => .refused .spectralCentroidPolicy
  | .energy => if s.cfg.thresh.toInt < 0 then .next (discardFlow s) else .next (detUpdate s)

/-- DET (R291). -/
def execDet (s : State) : Host.Outcome State Fault Refusal := detPhase s

end Sys2Proof.Machine
end

