-- ==== Sys2Proof/Machine/Multiplexer.lean ====
section
/-! DEFINITION. The channel multiplexer (44_multiplexer.md). -/

namespace Sys2Proof.Machine

/-- A block for an occupied slot: released, counted, MUXOVR (R332). -/
def muxOverrun (h : Handle) (s : State) : State :=
  raise .muxovr { release (some h) s with cnt := { s.cnt with muxdrop := s.cnt.muxdrop + 1 } }

/-- Channel c's block accepted (R330, R332). -/
def muxAccept (s : State) (c : Nat) : State :=
  match slotAt s.flow c with
  | none => s
  | some h => if (slotAt s.muxIn c).isSome then muxOverrun h s else { s with muxIn := s.muxIn.set c (some h) }

/-- Every block in transit accepted, by channel (R330). -/
def muxAcceptAll (s : State) : State :=
  { (List.range s.build.N).foldl muxAccept s with flow := noBlocks s.build.N }

/-- The inputs released and the slots emptied (R333, R337). -/
def muxEmpty (s : State) : State := { releaseAll s.muxIn s with muxIn := noBlocks s.build.N }

/-- The whole frame dropped for lack of output blocks: counted, MUXPOOL (R333). -/
def muxPoolFailed (s : State) : State :=
  raise .muxpool { muxEmpty s with cnt := { s.cnt with muxpoolfail := s.cnt.muxpoolfail + 1 } }

/-- MUXIN[i mod N][b*(L/N) + i div N], the sample that output b's sample i copies (R334). A slot with no block is
never asked: the frame is complete. -/
def muxSource (s : State) (b i : Nat) : Sample :=
  poolSample s ((slotAt s.muxIn (i % s.build.N)).getD 0) (b * (s.build.L / s.build.N) + i / s.build.N)

/-- Sample i of output block b, whose handle is h (R334). -/
def muxWriteSample (b : Nat) (h : Handle) (s : State) (i : Nat) : State := writeSample h i (muxSource s b i) s

/-- Output block b written (R334). -/
def muxWriteBlock (s : State) (bh : Handle × Nat) : State :=
  (List.range s.build.L).foldl (muxWriteSample bh.2 bh.1) s

/-- A complete frame emitted into the blocks `os` (R334, R336, R337). -/
def muxEmit (os : List Handle) (s : State) : State :=
  muxEmpty (os.foldl (fun s h => queuePush 0 h s) (os.zipIdx.foldl muxWriteBlock s))

/-- The frame, if every slot is filled (R330, R333, R335). -/
def muxFrame (s : State) : State :=
  if allPresent s.build.N s.muxIn then
    match allocN s.build.N s with
    | none => muxPoolFailed s
    | some (os, s') => muxEmit os s'
  else s

/-- The multiplexer update (R330); a MUXED = 0 build has no multiplexer, and no rule of it runs (log 4). -/
def muxPhase (s : State) : State := if s.build.MUXED then muxFrame (muxAcceptAll s) else s

/-- MUX (R330). -/
def execMux (s : State) : Host.Outcome State Fault Refusal := .next (muxPhase s)

end Sys2Proof.Machine
end

