-- ==== Sys2Proof/Machine/Tick.lean ====
section
/-! DEFINITION. DMA beats, the completion service and the tick (40_tick.md). -/

namespace Sys2Proof.Machine

-- DMA

/-- The position after a beat (R200). -/
def nextPos (s : State) : Nat := (s.dmaPos + 1) % (2 * s.build.H)

/-- The kind of the completion at a half boundary (R200). -/
def kindAt (s : State) (p : Nat) : EvKind := if p = s.build.H then .half else .full

/-- A completion: pending, or coalesced with the pending one (R200, R455). -/
def complete (k : EvKind) (s : State) : State :=
  if s.evPend then raise .dmaovr s else { s with evPend := true, evKind := k }

/-- The word stored and the position advanced (R200). -/
def storeBeat (d : Word) (s : State) : State := { writeRaw s.dmaPos d s with dmaPos := nextPos s }

/-- DMA.WR (R200). -/
def execDmaWr (d : Word) (s : State) : Host.Outcome State Fault Refusal :=
  if nextPos s = s.build.H ∨ nextPos s = 0 then .next (complete (kindAt s (nextPos s)) (storeBeat d s))
  else .next (storeBeat d s)

-- The tick

/-- n QPUSH phases (R203). -/
def pushAll : Nat → State → State
  | 0, s => s
  | n + 1, s => pushAll n (pushPhase s)

/-- The sink (R203, R205): the multiplexer, or one push per present channel in channel order. -/
def sinkPhases (s : State) : State := if s.build.MUXED then muxPhase s else pushAll s.build.N s

/-- The end of a tick: nothing is in transit (R207; log 4). -/
def endTick (s : State) : State := { s with live := noBlocks s.build.N, flow := noBlocks s.build.N }

/-- The route of a tick after the acquisition update (R203, R204). -/
def tickRoute (s : State) : Host.Outcome State Fault Refusal :=
  if s.cfg.thresh.toInt < 0 then .next (endTick (sinkPhases s))
  else
    match detPhase (dlPhase s) with
    | .next s' => .next (endTick (sinkPhases s'))
    | .fault f => .fault f
    | .refused r => .refused r

/-- One tick (R203). -/
def tick (s : State) : Host.Outcome State Fault Refusal := tickRoute (acqPhase (isrPhase s))

-- The completion service

/-- The service of a completion of kind k (R201, R202). Without a pending completion of that kind the event sequencer
has no such step, and nothing changes (R201, R463; log 5). -/
def serviceCompletion (k : EvKind) (s : State) : Host.Outcome State Fault Refusal :=
  if s.evPend = true ∧ s.evKind = k then
    (if s.run then tick { s with evPend := false } else .next { s with evPend := false })
  else .next s

/-- EV.HALF (R201). -/
def execEvHalf (s : State) : Host.Outcome State Fault Refusal := serviceCompletion .half s

/-- EV.FULL (R201). -/
def execEvFull (s : State) : Host.Outcome State Fault Refusal := serviceCompletion .full s

end Sys2Proof.Machine
end

