-- ==== Sys2Proof/Machine/Dispatch.lean ====
section
/-! DEFINITION. One arm per instruction: a direct call of its meaning. -/

namespace Sys2Proof.Machine

def exec (i : Instr) (s : State) : Host.Outcome State Fault Refusal :=
  match i with
  | .nop => Sys2Proof.Machine.execNop s
  | .start => Sys2Proof.Machine.execStart s
  | .stop => Sys2Proof.Machine.execStop s
  | .detrst => Sys2Proof.Machine.execDetrst s
  | .qavail q => Sys2Proof.Machine.execQavail q s
  | .qread q => Sys2Proof.Machine.execQread q s
  | .qfree q => Sys2Proof.Machine.execQfree q s
  | .qclear q => Sys2Proof.Machine.execQclear q s
  | .rd32 a => Sys2Proof.Machine.execRd32 a s
  | .rd16 a => Sys2Proof.Machine.execRd16 a s
  | .rd8 a => Sys2Proof.Machine.execRd8 a s
  | .wr32 a d => Sys2Proof.Machine.execWr32 a d s
  | .wr16 a d => Sys2Proof.Machine.execWr16 a d s
  | .wr8 a d => Sys2Proof.Machine.execWr8 a d s
  | .dmaWr d => Sys2Proof.Machine.execDmaWr d s
  | .evHalf => Sys2Proof.Machine.execEvHalf s
  | .evFull => Sys2Proof.Machine.execEvFull s
  | .isr => Sys2Proof.Machine.execIsr s
  | .acq => Sys2Proof.Machine.execAcq s
  | .dl => Sys2Proof.Machine.execDl s
  | .det => Sys2Proof.Machine.execDet s
  | .mux => Sys2Proof.Machine.execMux s
  | .qpush => Sys2Proof.Machine.execQpush s

end Sys2Proof.Machine
end

