-- ==== Sys2Proof/Machine/Step.lean ====
section
/-! DEFINITION. One step of the block: the next input arrives at its port, is decoded and takes effect, atomically
(20_memory.md R120, R121). -/

namespace Sys2Proof.Machine

/-- An instance that violates a build constraint is refused (R463(b)). With nothing left to arrive a step changes nothing
(70_reset_and_hazards.md R522; log 3). -/
def step (s : State) : Host.Outcome State Fault Refusal :=
  if buildValid s.build then
    match nextInput s with
    | none => .next s
    | some (i, s') =>
      match decode i with
      | .ok ins => exec ins s'
      | .error r => rejected r s'
  else .refused .invalidBuild

/-- The state with an instruction word of the opcode table as its next input; a word of no format changes nothing. -/
def State.withFetchWord (s : State) (nbits w : Nat) : State :=
  match tableInput nbits w with
  | some i => placeInput i s
  | none => s

end Sys2Proof.Machine
end

