-- ==== Sys2Proof/Safety.lean ====
section
/-! DEFINITION. The invariants of the block and the terms the claims use (10_state.md section 4). -/

namespace Sys2Proof.Machine

-- Shape and ranges

/-- A list of n places. -/
abbrev Places (n : Nat) (xs : List Slot) : Prop := xs.length = n

/-- A queue of the build: QCAP+1 slots, head and tail in 0..QCAP (R66). -/
abbrev QueueShaped (b : Build) (u : Queue) : Prop := Places (b.QCAP + 1) u.slots ∧ u.head ≤ b.QCAP ∧ u.tail ≤ b.QCAP

/-- Every element of state has the size and the range that R57-R67 give it. -/
abbrev Shaped (s : State) : Prop :=
  buildValid s.build = true ∧ s.chans.length = s.build.N ∧ Places s.build.N s.acqCur ∧
  (s.acqOff = 0 ∨ s.acqOff = s.build.L) ∧ s.dmaPos < 2 * s.build.H ∧
  s.dlSlot.length = s.build.N ∧ (∀ r ∈ s.dlSlot, Places s.build.DCAP r) ∧ s.dlHead < s.build.DCAP ∧
  Places s.build.N s.muxIn ∧ s.queues.length = s.build.NQ ∧ (∀ u ∈ s.queues, QueueShaped s.build u) ∧
  s.free.length = s.build.NBLK ∧ Places s.build.N s.live ∧ Places s.build.N s.flow

/-- The configuration registers that have illegal values hold legal ones (R46-R50, R426). -/
abbrev LegalConfig (s : State) : Prop :=
  1 ≤ s.cfg.win0.toInt ∧ 1 ≤ s.cfg.win1.toInt ∧ 0 ≤ s.cfg.extr.toInt ∧ 0 ≤ s.cfg.inhib.toInt ∧ 0 ≤ s.cfg.nrep.toInt

/-- PREV[c] is a sample, sign-extended; MAXSQ[c] and AVG[c] are in 0..0xFFFE0001 (R57, R294). -/
abbrev StatsInRange (s : State) : Prop :=
  ∀ ch ∈ s.chans, -32768 ≤ ch.prev.toInt ∧ ch.prev.toInt ≤ 32767 ∧ ch.maxsq.toNat ≤ 0xFFFE0001 ∧ ch.avg.toNat ≤ 0xFFFE0001

-- Ownership

/-- Every place that can hold a block: the current slots, the delay line, the multiplexer, the queues (R70), and the
blocks in transit between two phases, which are none between port steps (log 4). -/
def places (s : State) : List Slot :=
  s.acqCur ++ s.dlSlot.flatten ++ s.muxIn ++ (s.queues.map Queue.slots).flatten ++ s.flow

/-- Nothing is in transit: the state between two steps of the agents (R31, R207). -/
abbrev Quiet (s : State) : Prop := s.live = noBlocks s.build.N ∧ s.flow = noBlocks s.build.N

/-- Every held handle is a block of the pool; an allocated block is in exactly one place, a free one in none (R70). -/
abbrev Owned (s : State) : Prop :=
  (∀ o ∈ places s, ∀ h ∈ o, h < s.build.NBLK) ∧
  ∀ h < s.build.NBLK, (places s).count (some h) = if s.free.getD h false then 0 else 1

/-- Either every current slot holds a block or none does (R60). -/
abbrev CurrentAllOrNone (s : State) : Prop := s.acqCur.all Option.isNone = true ∨ s.acqCur.all Option.isSome = true

/-- The queue's filled slots are the queued indices, and a lent block is a queued one (R72). -/
abbrev QueueFilled (b : Build) (u : Queue) : Prop :=
  (u.borrow = true → 1 ≤ queueCount b u) ∧
  ∀ k < b.QCAP + 1, (slotAt u.slots k).isSome = true ↔ k ∈ queuedIndices b u

/-- Every queue is filled as R72 says. -/
abbrev QueuesFilled (s : State) : Prop := ∀ u ∈ s.queues, QueueFilled s.build u

/-- The invariant of the block between two steps of the agents (R60, R66, R67, R70, R72). -/
abbrev BlockInvariant (s : State) : Prop :=
  Shaped s ∧ Quiet s ∧ CurrentAllOrNone s ∧ QueuesFilled s ∧ Owned s

-- What arrives next

/-- The next input is a phase code, which no port carries (R140; log 4). -/
def nextIsPhase (s : State) : Bool :=
  match s.inputs with
  | .phase _ :: _ => true
  | _ => false

/-- The next input is a power cycle (R500). -/
def nextIsPower (s : State) : Bool :=
  match s.inputs with
  | .power :: _ => true
  | _ => false

/-- The next input is a host WR32 to the given offset (R423). -/
def nextWrites (a : BitVec 16) (s : State) : Bool :=
  match s.inputs with
  | .bus desc _ :: _ => desc == busDesc 0b110 a
  | _ => false

/-- The instruction is a host access or a command. -/
def fromHost : Instr → Bool
  | .nop | .start | .stop | .detrst => true
  | .qavail _ | .qread _ | .qfree _ | .qclear _ => true
  | .rd32 _ | .rd16 _ | .rd8 _ => true
  | .wr32 _ _ | .wr16 _ _ | .wr8 _ _ => true
  | .dmaWr _ | .evHalf | .evFull => false
  | .isr | .acq | .dl | .det | .mux | .qpush => false

/-- The instruction is a host read access. -/
def isRead : Instr → Bool
  | .rd32 _ | .rd16 _ | .rd8 _ => true
  | .nop | .start | .stop | .detrst => false
  | .qavail _ | .qread _ | .qfree _ | .qclear _ => false
  | .wr32 _ _ | .wr16 _ _ | .wr8 _ _ => false
  | .dmaWr _ | .evHalf | .evFull => false
  | .isr | .acq | .dl | .det | .mux | .qpush => false

/-- The instruction opens or closes a session: START, STOP, or a write to CMD (R68, R410). -/
def touchesRun : Instr → Bool
  | .start | .stop => true
  | .wr32 a _ => a == 0x014
  | .nop | .detrst => false
  | .qavail _ | .qread _ | .qfree _ | .qclear _ => false
  | .rd32 _ | .rd16 _ | .rd8 _ => false
  | .wr16 _ _ | .wr8 _ _ => false
  | .dmaWr _ | .evHalf | .evFull => false
  | .isr | .acq | .dl | .det | .mux | .qpush => false

-- Sequences of operations

/-- The delay line fed with one tuple of blocks a tick: what it emits in each tick, and the state at the end (R264). -/
def feedDelayLine : List (List Slot) → State → List (List Slot) × State
  | [], s => ([], s)
  | x :: xs, s =>
    let t := dlPhase { s with flow := x }
    let r := feedDelayLine xs t
    (t.flow :: r.1, r.2)

/-- The blocks queued, oldest first (R72, R369). -/
def queuedBlocks (b : Build) (u : Queue) : List Slot := (queuedIndices b u).map (slotAt u.slots)

/-- `pop q`: QREAD and then QFREE (R154, R367). -/
def popQueue (q : Nat) (s : State) : State := returnLent q (borrowOldest q s)

/-- A sequence of pushes (`some h`) and pops (`none`) on queue q (R367). -/
def runQueue (q : Nat) : List Slot → State → State
  | [], s => s
  | some h :: rest, s => runQueue q rest (queuePush q h s)
  | none :: rest, s => runQueue q rest (popQueue q s)

/-- No pop of the sequence meets an empty queue, when n blocks are queued at its start (R367). -/
def popsMeetBlocks : Nat → List Slot → Bool
  | _, [] => true
  | n, some _ :: rest => popsMeetBlocks (n + 1) rest
  | 0, none :: _ => false
  | n + 1, none :: rest => popsMeetBlocks n rest

/-- The squared first differences of a block (R293). -/
def squaredDiffs : Int → List Sample → List Nat
  | _, [] => []
  | p, x :: xs => ((x.toInt - p) * (x.toInt - p)).toNat :: squaredDiffs x.toInt xs

-- Terms of single claims

/-- A 4-byte read at offset a answers v and changes nothing else (R109, R420). -/
def readsAs (s : State) (a : BitVec 16) (v : Word) : Prop := exec (.rd32 a) s = .next { s with rdata := v }

/-- A CMD word that matches no row of the table in R147. -/
def isReservedCmd (w : Word) : Bool :=
  w != 0x00000000 && w != 0x01000000 && w != 0x02000000 && w != 0x03000000 &&
  w &&& 0xFFF0FFFF != 0x10000000 && w &&& 0xFFF0FFFF != 0x11000000 &&
  w &&& 0xFFF0FFFF != 0x12000000 && w &&& 0xFFF0FFFF != 0x13000000

/-- The mapped register offsets (R57-R59, R117). -/
def mappedOffset (b : Build) (a : Nat) : Bool :=
  a % 4 == 0 &&
    (decide (a ≤ 0x064) || (decide (0x100 ≤ a ∧ a < 0x200) && decide ((a - 0x100) / 16 < b.N)) ||
      (decide (0x200 ≤ a ∧ a < 0x300) && decide ((a - 0x200) / 16 < b.NQ) && a % 16 != 0xC))

/-- The registers that a 4-byte write reaches: STATUS, CMD and the configuration registers (R423). -/
def writableOffset (b : Build) (a : Nat) : Bool :=
  [0x00C, 0x010, 0x014, 0x01C, 0x020, 0x024, 0x028, 0x02C, 0x030, 0x034, 0x038].contains a ||
    (decide (0x100 ≤ a ∧ a < 0x200) && decide ((a - 0x100) / 16 < b.N) && a % 16 == 0)

/-- The bus accesses that are refused (R421, R422, R424, R425), for the accesses that have an instruction. -/
def accessRefused (b : Build) : Instr → Bool
  | .rd32 a =>
    !((decide (a.toNat < 0x4000) && mappedOffset b a.toNat) ||
      (decide (0x4000 ≤ a.toNat ∧ a.toNat < 0x8000 ∧ a.toNat % 4 = 0) && decide ((a.toNat - 0x4000) / 4 < 2 * b.H)) ||
      (decide (0x8000 ≤ a.toNat ∧ a.toNat % 4 = 0) && decide ((a.toNat - 0x8000) / 2 + 1 < b.NBLK * b.L)))
  | .rd16 a => !(decide (0x8000 ≤ a.toNat ∧ a.toNat % 2 = 0) && decide ((a.toNat - 0x8000) / 2 < b.NBLK * b.L))
  | .wr32 a _ => !writableOffset b a.toNat
  | .rd8 _ | .wr16 _ _ | .wr8 _ _ => true
  | .nop | .start | .stop | .detrst => false
  | .qavail _ | .qread _ | .qfree _ | .qclear _ => false
  | .dmaWr _ | .evHalf | .evFull => false
  | .isr | .acq | .dl | .det | .mux | .qpush => false

/-- The instruction is a bus access (R148). -/
def isAccess : Instr → Bool
  | .rd32 _ | .rd16 _ | .rd8 _ | .wr32 _ _ | .wr16 _ _ | .wr8 _ _ => true
  | .nop | .start | .stop | .detrst => false
  | .qavail _ | .qread _ | .qfree _ | .qclear _ => false
  | .dmaWr _ | .evHalf | .evFull => false
  | .isr | .acq | .dl | .det | .mux | .qpush => false

/-- `f'` are the free bits after the blocks `hs`, distinct and free before, have been taken (R110, R111). -/
def tookBlocks (f : List Bool) (hs : List Handle) (f' : List Bool) : Prop :=
  hs.Nodup ∧ (∀ h ∈ hs, h < f.length ∧ f.getD h false = true) ∧ f'.length = f.length ∧
    ∀ h, f'.getD h false = (f.getD h false && !hs.contains h)

/-- `f'` are the free bits after every block that `held` says has been released (R112). -/
def releasedBlocks (f : List Bool) (held : Handle → Prop) (f' : List Bool) : Prop :=
  f'.length = f.length ∧ ∀ h, f'.getD h false = true ↔ f.getD h false = true ∨ (h < f.length ∧ held h)

/-- The phases of one tick, in order (R203, R204, R205). -/
def tickPhases (s : State) : List Instr :=
  [.isr, .acq] ++ (if s.cfg.thresh.toInt < 0 then [] else [.dl, .det]) ++
    (if s.build.MUXED then [.mux] else List.replicate s.build.N .qpush)

/-- Instructions one after another, stopping at the first that has no next state. -/
def runInstrs : List Instr → State → Host.Outcome State Fault Refusal
  | [], s => .next s
  | i :: is, s =>
    match exec i s with
    | .next s' => runInstrs is s'
    | .fault f => .fault f
    | .refused r => .refused r

/-- The outcome with its next state, if it has one, changed by f. -/
def mapNext (f : State → State) : Host.Outcome State Fault Refusal → Host.Outcome State Fault Refusal
  | .next s => .next (f s)
  | .fault e => .fault e
  | .refused r => .refused r

/-- A completion of kind k is pending and a session runs: the service of that completion runs a tick (R201). -/
abbrev serviceDue (k : EvKind) (s : State) : Prop := s.evPend = true ∧ s.evKind = k ∧ s.run = true

/-- The event-sequencer instruction that services completions of kind k (R144). -/
def serviceOf : EvKind → Instr
  | .half => .evHalf
  | .full => .evFull

end Sys2Proof.Machine
end

