-- ==== Sys2Proof/Certificates/Slice0/Obligations.lean ====
section
/-! DEFINITION. The statements for the provers. Each docstring names the rule of spec/ it formalises. -/

open Sys2Proof Sys2Proof.Machine

-- Encoding

/-- Every instruction that has an encoding is read back from it, with every operand (30_encoding.md sections 1-3). -/
def Obligations.DecodeReadsBackEveryEncoding : Prop :=
  ∀ i : Instr, i.wellFormed = true → decode (encode i) = .ok i

/-- R147: a CMD word selects a command iff it matches that command's full pattern; a queue command's index is
word[19:16]. -/
def Obligations.CommandWordsSelectTheirRow : Prop :=
  ∀ (w : Word) (q : Nat),
    (decode (.cmd w) = .ok .nop ↔ w = 0x00000000) ∧
    (decode (.cmd w) = .ok .start ↔ w = 0x01000000) ∧
    (decode (.cmd w) = .ok .stop ↔ w = 0x02000000) ∧
    (decode (.cmd w) = .ok .detrst ↔ w = 0x03000000) ∧
    (decode (.cmd w) = .ok (.qavail q) ↔ w &&& 0xFFF0FFFF = 0x10000000 ∧ q = w.toNat / 2 ^ 16 % 16) ∧
    (decode (.cmd w) = .ok (.qread q) ↔ w &&& 0xFFF0FFFF = 0x11000000 ∧ q = w.toNat / 2 ^ 16 % 16) ∧
    (decode (.cmd w) = .ok (.qfree q) ↔ w &&& 0xFFF0FFFF = 0x12000000 ∧ q = w.toNat / 2 ^ 16 % 16) ∧
    (decode (.cmd w) = .ok (.qclear q) ↔ w &&& 0xFFF0FFFF = 0x13000000 ∧ q = w.toNat / 2 ^ 16 % 16)

/-- R148: a BUS descriptor selects an access by its bits 18:16, with A = zext_16(descriptor[15:0]); SZ = 11 is
reserved. -/
def Obligations.BusDescriptorsSelectTheirRow : Prop :=
  ∀ (desc : BitVec 19) (data : Word),
    let a := BitVec.ofNat 16 (desc.toNat % 2 ^ 16)
    (desc &&& 0x70000 = 0x20000 → decode (.bus desc data) = .ok (.rd32 a)) ∧
    (desc &&& 0x70000 = 0x10000 → decode (.bus desc data) = .ok (.rd16 a)) ∧
    (desc &&& 0x70000 = 0x00000 → decode (.bus desc data) = .ok (.rd8 a)) ∧
    (desc &&& 0x70000 = 0x60000 → decode (.bus desc data) = .ok (.wr32 a data)) ∧
    (desc &&& 0x70000 = 0x50000 → decode (.bus desc data) = .ok (.wr16 a data)) ∧
    (desc &&& 0x70000 = 0x40000 → decode (.bus desc data) = .ok (.wr8 a data)) ∧
    (desc &&& 0x30000 = 0x30000 → decode (.bus desc data) = .error (.reservedBus (desc.getLsbD 18)))

/-- R149: DMA.WR is a beat with V = 1, EV.HALF is EVT 0b01, EV.FULL is EVT 0b10, and the phase codes are the remaining
rows. -/
def Obligations.BeatsEventsAndPhasesSelectTheirRow : Prop :=
  (∀ beat : BitVec 33,
    (beat &&& 0x100000000 = 0x100000000 → decode (.dma beat) = .ok (.dmaWr (BitVec.ofNat 32 (beat.toNat % 2 ^ 32)))) ∧
    (beat &&& 0x100000000 = 0 → decode (.dma beat) = .error .noBeat)) ∧
  decode (.evt 0b01) = .ok .evHalf ∧ decode (.evt 0b10) = .ok .evFull ∧
  decode (.phase 0b000) = .ok .isr ∧ decode (.phase 0b001) = .ok .acq ∧ decode (.phase 0b010) = .ok .dl ∧
  decode (.phase 0b011) = .ok .det ∧ decode (.phase 0b100) = .ok .mux ∧ decode (.phase 0b101) = .ok .qpush

/-- Words written out in 95_test_vectors.md decode to the instructions they stand for there. -/
def Obligations.VectorWordsDecode : Prop :=
  decode (.cmd 0x01000000) = .ok .start ∧ decode (.cmd 0x11020000) = .ok (.qread 2) ∧
  decode (.bus 0x60014 0x01000000) = .ok (.wr32 0x014 0x01000000) ∧ decode (.bus 0x20018 0) = .ok (.rd32 0x018) ∧
  decode (.bus 0x18026 0) = .ok (.rd16 0x8026) ∧ decode (.bus 0x50020 1) = .ok (.wr16 0x020 1) ∧
  decode (.dma 0x1FFFFFF00) = .ok (.dmaWr 0xFFFFFF00) ∧ decode (.evt 0b10) = .ok .evFull ∧
  decode (.phase 0b011) = .ok .det

-- The step

/-- When the next input decodes to an instruction, the step is that instruction's, on the state without the input
(20_memory.md R120, R121; log 3). -/
def Obligations.StepRunsTheDecodedInstruction : Prop :=
  ∀ (s : State) (p : Input) (rest : List Input) (i : Instr),
    buildValid s.build = true → s.inputs = p :: rest → decode p = .ok i →
    step s = exec i { s with inputs := rest }

/-- R411 and R151: a CMD word of no row raises CMDERR and nothing else; a BUS descriptor with SZ = 11 raises BUSERR, a
read returns 0 and a write changes nothing else; EVT 0b11 and PHASE 0b110, 0b111 are refused. A cycle with V = 0 and
EVT 0b00 do nothing (R143, R144). -/
def Obligations.ReservedWordsHaveTheirStatedEffect : Prop :=
  ∀ (s : State) (rest : List Input), buildValid s.build = true →
    (∀ w, isReservedCmd w = true → s.inputs = .cmd w :: rest →
      step s = .next { s with inputs := rest, err := { s.err with cmderr := true } }) ∧
    (∀ desc data, desc &&& 0x30000 = 0x30000 → s.inputs = .bus desc data :: rest →
      step s = .next { s with inputs := rest, err := { s.err with buserr := true },
                              rdata := if desc &&& 0x40000 = 0 then 0 else s.rdata }) ∧
    (∀ beat, beat &&& 0x100000000 = 0 → s.inputs = .dma beat :: rest → step s = .next { s with inputs := rest }) ∧
    (s.inputs = .evt 0b00 :: rest → step s = .next { s with inputs := rest }) ∧
    (s.inputs = .evt 0b11 :: rest → step s = .refused .reservedEventCode) ∧
    (s.inputs = .phase 0b110 :: rest → step s = .refused .reservedPhaseCode) ∧
    (s.inputs = .phase 0b111 :: rest → step s = .refused .reservedPhaseCode)

/-- An instance outside the constraints of R7 and R331 (a MUXED = 1 build requires L mod N = 0) is refused (R463(b)). That
each step makes the refusal, where exec does not look at the constraints, is the model's choice (log 1). -/
def Obligations.InvalidInstancesAreRefused : Prop :=
  ∀ s : State,
    (s.build.MUXED = true → s.build.L % s.build.N ≠ 0 → step s = .refused .invalidBuild) ∧
    ((s.build.L = 0 ∨ 2048 < s.build.L ∨ s.build.N = 0 ∨ 16 < s.build.N ∨ s.build.NBLK = 0 ∨ 65535 < s.build.NBLK ∨
      s.build.DCAP = 0 ∨ 255 < s.build.DCAP ∨ s.build.QCAP = 0 ∨ 255 < s.build.QCAP ∨ 2048 < s.build.L * s.build.N ∨
      32768 < s.build.NBLK * 2 * s.build.L) → step s = .refused .invalidBuild)

/-- The MODEL's choices where no agent has a step: with no input left (log 3), a service without a pending completion of
its kind (log 5), MUX in a MUXED = 0 build and QPUSH with no block in transit (log 4) change nothing. -/
def Obligations.IdleStepsChangeNothing : Prop :=
  ∀ s : State,
    (buildValid s.build = true → s.inputs = [] → step s = .next s) ∧
    (∀ k : EvKind, s.evPend = false ∨ s.evKind ≠ k → exec (serviceOf k) s = .next s) ∧
    (s.build.MUXED = false → exec .mux s = .next s) ∧
    ((∀ c < s.build.N, slotAt s.flow c = none) → exec .qpush s = .next s)

-- Session commands

/-- R400: NOP changes no state. -/
def Obligations.NopChangesNothing : Prop :=
  decode (.cmd 0x00000000) = .ok .nop ∧ ∀ s : State, exec .nop s = .next s

/-- R401: START while running gives RESULT 0 and nothing else; START while stopped releases every block of the delay
line and the multiplexer, empties them, resets DLHEAD, sets RUN and gives RESULT 1, and changes nothing else. -/
def Obligations.StartBeginsASession : Prop :=
  decode (.cmd 0x01000000) = .ok .start ∧ ∀ s : State,
    (s.run = true → exec .start s = .next { s with result := 0 }) ∧
    (s.run = false → ∃ f : List Bool,
      exec .start s = .next
        { s with dlSlot := List.replicate s.build.N (List.replicate s.build.DCAP none)
                 muxIn := List.replicate s.build.N none, dlHead := 0, run := true, result := 1, free := f } ∧
      releasedBlocks s.free
        (fun h => ∃ c < s.build.N, (∃ k < s.build.DCAP, slotAt (dlRow s c) k = some h) ∨ slotAt s.muxIn c = some h) f)

/-- R402: STOP gives the previous RUN as RESULT and clears RUN; nothing else changes. -/
def Obligations.StopEndsTheSession : Prop :=
  decode (.cmd 0x02000000) = .ok .stop ∧
  ∀ s : State, exec .stop s = .next { s with result := if s.run then 1 else 0, run := false }

/-- R403: DETRST sets SIGCOUNT to -INHIB, every other detector register to 0 and RESULT to 1, and nothing else. -/
def Obligations.DetrstReinitialisesTheDetector : Prop :=
  decode (.cmd 0x03000000) = .ok .detrst ∧
  ∀ s : State, exec .detrst s = .next
    { s with det := { sigcount := BitVec.ofInt 32 (-s.cfg.inhib.toInt), wdog := 0, detcnt := 0, noisecnt := 0 }
             chans := List.replicate s.build.N { nest := 0, maxsq := 0, avg := 0, prev := 0 }, result := 1 }

-- Queue commands

/-- R365: a queue command whose Q field is >= NQ changes no queue, leaves RESULT unchanged and raises CMDERR; NQ is 1
with MUXED = 1, and N with MUXED = 0. -/
def Obligations.QueueCommandsRefuseBadIndex : Prop :=
  ∀ (s : State) (q : Nat), (if s.build.MUXED then 1 else s.build.N) ≤ q →
    ∀ i ∈ [Instr.qavail q, .qread q, .qfree q, .qclear q],
      exec i s = .next { s with err := { s.err with cmderr := true } }

/-- R361: RESULT <- (QHEAD[q] - QTAIL[q]) mod (QCAP+1), and nothing else changes. -/
def Obligations.QavailCountsQueuedBlocks : Prop :=
  (∀ q < 16, decode (.cmd (BitVec.ofNat 32 (0x10 * 2 ^ 24 + q * 2 ^ 16))) = .ok (.qavail q)) ∧
  ∀ (s : State) (q : Nat) (u : Queue),
    q < s.build.NQ → s.queues[q]? = some u → QueueShaped s.build u → s.build.QCAP ≤ 255 →
    ∃ r : Word, exec (.qavail q) s = .next { s with result := r } ∧
      (r.toNat : Int) = ((u.head : Int) - (u.tail : Int)) % ((s.build.QCAP : Int) + 1)

/-- R362: QREAD gives null if a borrow is outstanding or the queue is empty; otherwise it lends the block at the tail,
which stays in its slot. (A queued slot without a block, in states no run reaches, gives a free value: log 11.) -/
def Obligations.QreadLendsTheOldestBlock : Prop :=
  (∀ q < 16, decode (.cmd (BitVec.ofNat 32 (0x11 * 2 ^ 24 + q * 2 ^ 16))) = .ok (.qread q)) ∧
  ∀ (s : State) (q : Nat) (u : Queue), q < s.build.NQ → s.queues[q]? = some u →
    ((u.borrow = true ∨ u.head = u.tail) → exec (.qread q) s = .next { s with result := 0xFFFFFFFF }) ∧
    (u.borrow = false → u.head ≠ u.tail →
      (∃ r : Word, exec (.qread q) s =
        .next { s with result := r, queues := s.queues.set q { u with borrow := true } }) ∧
      ∀ h, u.slots[u.tail]? = some (some h) →
        exec (.qread q) s =
          .next { s with result := BitVec.ofNat 32 h, queues := s.queues.set q { u with borrow := true } })

/-- R363: QFREE without a borrow gives RESULT 0 and has no other effect; with one it releases the block at the tail,
empties its slot, advances the tail, clears the borrow and gives RESULT 1. -/
def Obligations.QfreeReturnsTheLentBlock : Prop :=
  (∀ q < 16, decode (.cmd (BitVec.ofNat 32 (0x12 * 2 ^ 24 + q * 2 ^ 16))) = .ok (.qfree q)) ∧
  ∀ (s : State) (q : Nat) (u : Queue), q < s.build.NQ → s.queues[q]? = some u →
    (u.borrow = false → exec (.qfree q) s = .next { s with result := 0 }) ∧
    (u.borrow = true → ∃ f : List Bool,
      exec (.qfree q) s = .next
        { s with
          result := 1
          queues := s.queues.set q
            { u with slots := u.slots.set u.tail none, tail := (u.tail + 1) % (s.build.QCAP + 1), borrow := false }
          free := f } ∧
      releasedBlocks s.free (fun h => u.slots[u.tail]? = some (some h)) f)

/-- R364: QCLEAR releases the n queued blocks, the lent one included, empties their slots, resets head, tail and borrow,
keeps QDROP and gives RESULT n. -/
def Obligations.QclearDrainsTheQueue : Prop :=
  (∀ q < 16, decode (.cmd (BitVec.ofNat 32 (0x13 * 2 ^ 24 + q * 2 ^ 16))) = .ok (.qclear q)) ∧
  ∀ (s : State) (q n : Nat) (u : Queue),
    q < s.build.NQ → s.queues[q]? = some u → QueueShaped s.build u →
    (n : Int) = ((u.head : Int) - (u.tail : Int)) % ((s.build.QCAP : Int) + 1) →
    ∃ (f : List Bool) (slots : List Slot),
      exec (.qclear q) s = .next
        { s with
          result := BitVec.ofNat 32 n
          queues := s.queues.set q { slots := slots, head := 0, tail := 0, borrow := false, drop := u.drop }
          free := f } ∧
      slots.length = u.slots.length ∧
      (∀ k, slotAt slots k = if ∃ j < n, k = (u.tail + j) % (s.build.QCAP + 1) then none else slotAt u.slots k) ∧
      releasedBlocks s.free (fun h => ∃ j < n, slotAt u.slots ((u.tail + j) % (s.build.QCAP + 1)) = some h) f

/-- R360 and R366, through the QPUSH phase: the first block in transit, by channel, is stored at the head of its queue,
which advances, or, if the queue is full, it is released, QDROP goes up by 1 and QFULL is raised. (Which block and queue
the phase takes is the model's convention: log 4.) -/
def Obligations.QpushStoresOrDrops : Prop :=
  ∀ (s : State) (c h q : Nat) (u : Queue),
    c < s.build.N → slotAt s.flow c = some h → (∀ k < c, slotAt s.flow k = none) →
    q = (if s.build.MUXED then 0 else c) → s.queues[q]? = some u →
    ((u.head + 1) % (s.build.QCAP + 1) ≠ u.tail →
      exec .qpush s = .next
        { s with
          flow := s.flow.set c none
          queues := s.queues.set q
            { u with slots := u.slots.set u.head (some h), head := (u.head + 1) % (s.build.QCAP + 1) } }) ∧
    ((u.head + 1) % (s.build.QCAP + 1) = u.tail →
      exec .qpush s = .next
        { s with
          flow := s.flow.set c none
          queues := s.queues.set q { u with drop := u.drop + 1 }
          free := s.free.set h true
          err := { s.err with qfull := true } })

/-- R368, R369 as a refinement: on its queued blocks, oldest first, a queue is a bounded FIFO. A push appends while
fewer than QCAP blocks are queued and otherwise leaves them alone; QREAD answers the first; a pop removes the first. -/
def Obligations.QueueRefinesABoundedFifo : Prop :=
  ∀ (s : State) (q h : Nat) (u : Queue),
    buildValid s.build = true → s.queues[q]? = some u → QueueShaped s.build u → QueueFilled s.build u →
    let blocks (t : State) := queuedBlocks t.build (queueAt t q)
    ((blocks s).length < s.build.QCAP → blocks (queuePush q h s) = blocks s ++ [some h]) ∧
    ((blocks s).length = s.build.QCAP → blocks (queuePush q h s) = blocks s) ∧
    (blocks s).length ≤ s.build.QCAP ∧
    (∀ k rest, u.borrow = false → blocks s = some k :: rest →
      (borrowOldest q s).result = BitVec.ofNat 32 k ∧ blocks (borrowOldest q s) = blocks s ∧
      blocks (popQueue q s) = rest ∧ (queueAt (popQueue q s) q).borrow = false)

/-- R367: from an empty queue with no borrow, k pushes and j pops in any order in which no pop meets an empty queue, with
j <= k <= QCAP, leave QAVAIL = k - j, and no push was dropped. -/
def Obligations.QueueCountIsPushesMinusPops : Prop :=
  ∀ (s : State) (q : Nat) (u : Queue) (ops : List Slot),
    buildValid s.build = true → s.queues[q]? = some u → QueueShaped s.build u → u.head = u.tail → u.borrow = false →
    popsMeetBlocks 0 ops = true → ops.countP Option.isSome ≤ s.build.QCAP →
    queueCount s.build (queueAt (runQueue q ops s) q) = ops.countP Option.isSome - ops.countP Option.isNone ∧
      (queueAt (runQueue q ops s) q).drop = u.drop

-- Register reads

/-- The global registers read as 10_state.md section 2 says, with no other effect (R109, R420). -/
def Obligations.GlobalRegistersReadTheirState : Prop :=
  ∀ s : State,
    readsAs s 0x000 0x4D535201 ∧ readsAs s 0x00C (if s.cfg.closeEv then 2 else 0) ∧ readsAs s 0x014 0 ∧
    readsAs s 0x018 s.result ∧ readsAs s 0x01C (BitVec.ofNat 32 s.cfg.shift.toNat) ∧ readsAs s 0x020 s.cfg.thresh ∧
    readsAs s 0x024 s.cfg.win0 ∧ readsAs s 0x028 s.cfg.win1 ∧ readsAs s 0x02C s.cfg.extr ∧
    readsAs s 0x030 s.cfg.inhib ∧ readsAs s 0x034 s.cfg.nrep ∧ readsAs s 0x038 s.cfg.delay ∧
    readsAs s 0x03C s.det.sigcount ∧ readsAs s 0x040 s.det.wdog ∧ readsAs s 0x044 s.det.detcnt ∧
    readsAs s 0x048 s.det.noisecnt ∧ readsAs s 0x04C s.cnt.allocfail ∧ readsAs s 0x050 s.cnt.muxdrop ∧
    readsAs s 0x054 s.cnt.muxpoolfail ∧ readsAs s 0x058 (BitVec.ofNat 32 (s.free.count true)) ∧
    readsAs s 0x05C (BitVec.ofNat 32 s.dmaPos) ∧ readsAs s 0x060 (BitVec.ofNat 32 s.dlHead) ∧
    ∃ v : Word, readsAs s 0x064 v ∧
      ∀ c < 32, v.getLsbD c = (decide (c < s.build.N) && (slotAt s.muxIn c).isSome)

/-- R41, R42: PARAM0 and PARAM1 hold the build parameters in their fields, and a write to them is refused. -/
def Obligations.ParameterRegistersHoldTheBuild : Prop :=
  ∀ s : State, buildValid s.build = true → ∃ v w : Word,
    readsAs s 0x004 v ∧ readsAs s 0x008 w ∧
    (v.extractLsb' 0 16).toNat = s.build.L ∧ (v.extractLsb' 16 5).toNat = s.build.N ∧ v.extractLsb' 21 3 = 0 ∧
    v.getLsbD 24 = s.build.MUXED ∧ v.getLsbD 25 = decide (s.build.POLICY = .centroid) ∧ v.extractLsb' 26 6 = 0 ∧
    (w.extractLsb' 0 16).toNat = s.build.NBLK ∧ (w.extractLsb' 16 8).toNat = s.build.DCAP ∧
    (w.extractLsb' 24 8).toNat = s.build.QCAP ∧
    ∀ a ∈ [0x004, (0x008 : BitVec 16)], ∀ d : Word,
      exec (.wr32 a d) s = .next { s with err := { s.err with buserr := true } }

/-- STATUS reads its thirteen bits, and 0 above them (R52, R60, R420). -/
def Obligations.StatusReadsItsBits : Prop :=
  ∀ s : State, ∃ v : Word, readsAs s 0x010 v ∧ v.getLsbD 0 = s.run ∧ (∀ c : Cause, v.getLsbD c.bit = s.err.get c) ∧
    v.getLsbD 10 = s.evPend ∧ v.getLsbD 11 = (slotAt s.acqCur 0).isSome ∧
    v.getLsbD 12 = decide (s.acqOff = s.build.L) ∧ v.extractLsb' 13 19 = 0

/-- The registers of each channel and of each queue read as R57 and R58 say; +0xC of a queue is reserved. -/
def Obligations.ChannelAndQueueRegistersReadTheirState : Prop :=
  ∀ s : State, buildValid s.build = true →
    (∀ c ch, c < s.build.N → s.chans[c]? = some ch →
      readsAs s (BitVec.ofNat 16 (0x100 + 0x10 * c)) ch.nest ∧ readsAs s (BitVec.ofNat 16 (0x104 + 0x10 * c)) ch.maxsq ∧
      readsAs s (BitVec.ofNat 16 (0x108 + 0x10 * c)) ch.avg ∧ readsAs s (BitVec.ofNat 16 (0x10C + 0x10 * c)) ch.prev) ∧
    (∀ q u, q < s.build.NQ → s.queues[q]? = some u → QueueShaped s.build u → ∃ n p : Word,
      readsAs s (BitVec.ofNat 16 (0x200 + 0x10 * q)) n ∧
      (n.toNat : Int) = ((u.head : Int) - (u.tail : Int)) % ((s.build.QCAP : Int) + 1) ∧
      readsAs s (BitVec.ofNat 16 (0x204 + 0x10 * q)) u.drop ∧ readsAs s (BitVec.ofNat 16 (0x208 + 0x10 * q)) p ∧
      (p.extractLsb' 0 8).toNat = u.head ∧ (p.extractLsb' 8 8).toNat = u.tail ∧ p.getLsbD 16 = u.borrow ∧
      p.extractLsb' 17 15 = 0 ∧
      exec (.rd32 (BitVec.ofNat 16 (0x20C + 0x10 * q))) s =
        .next { s with rdata := 0, err := { s.err with buserr := true } })

-- Windows, refusals, writes

/-- R104: a 4-byte read at a multiple of 4 in the raw window, with j = (o - 0x4000)/4 < 2H, returns RAW[j]; any other read
in the window, and every write, is refused with BUSERR. -/
def Obligations.RawWindowIsReadOnlyWords : Prop :=
  ∀ (s : State) (a : BitVec 16) (d : Word), 0x4000 ≤ a.toNat → a.toNat < 0x8000 →
    (a.toNat % 4 = 0 → (a.toNat - 0x4000) / 4 < 2 * s.build.H →
      exec (.rd32 a) s = .next { s with rdata := rawWord s ((a.toNat - 0x4000) / 4) }) ∧
    (a.toNat % 4 ≠ 0 ∨ 2 * s.build.H ≤ (a.toNat - 0x4000) / 4 →
      exec (.rd32 a) s = .next { s with rdata := 0, err := { s.err with buserr := true } }) ∧
    (∀ i ∈ [Instr.rd16 a, .rd8 a],
      exec i s = .next { s with rdata := 0, err := { s.err with buserr := true } }) ∧
    ∀ i ∈ [Instr.wr32 a d, .wr16 a d, .wr8 a d], exec i s = .next { s with err := { s.err with buserr := true } }

/-- Pool reads (R101, R105, R108, R116): of lent blocks they return the samples, the lower offset in bits 15:0; of any
other block in range they are performed, and their value is unspecified (U3; log 7). -/
def Obligations.PoolWindowReadsLentSamples : Prop :=
  ∀ (s : State) (a : BitVec 16) (g : Nat), a.toNat = 0x8000 + 2 * g →
    (g < s.build.NBLK * s.build.L →
      (∃ (v : Sample) (k : Nat), exec (.rd16 a) s = .next { s with rdata := v.setWidth 32, draws := k }) ∧
      (lent s (g / s.build.L) = true → exec (.rd16 a) s = .next { s with rdata := (plin s g).setWidth 32 })) ∧
    (g % 2 = 0 → g + 1 < s.build.NBLK * s.build.L →
      (∃ (v : Word) (k : Nat), exec (.rd32 a) s = .next { s with rdata := v, draws := k }) ∧
      (lent s (g / s.build.L) = true → lent s ((g + 1) / s.build.L) = true →
        exec (.rd32 a) s = .next { s with rdata := plin s (g + 1) ++ plin s g }))

/-- R425 (with R421, R422, R424): a refused access raises BUSERR, a read returns 0 and nothing else changes; an access
that is not refused completes and raises no BUSERR. -/
def Obligations.AccessesAreRefusedExactlyAsStated : Prop :=
  ∀ (s : State) (i : Instr), isAccess i = true →
    (accessRefused s.build i = true →
      exec i s = .next { s with err := { s.err with buserr := true }, rdata := if isRead i then 0 else s.rdata }) ∧
    (accessRefused s.build i = false →
      ∃ t : State, exec i s = .next t ∧ (t.err.buserr = true → s.err.buserr = true))

/-- R81, R426: a configuration write is performed only while RUN = 0 and with a legal value; otherwise the register keeps
its value and CFGERR is raised. -/
def Obligations.ConfigWritesNeedStoppedAndLegal : Prop :=
  ∀ (s : State) (d : Word),
    let bad := Host.Outcome.next (φ := Fault) (ρ := Refusal) { s with err := { s.err with cfgerr := true } }
    (s.run = true →
      (∀ a ∈ [0x00C, 0x01C, 0x020, 0x024, 0x028, 0x02C, 0x030, 0x034, (0x038 : BitVec 16)], exec (.wr32 a d) s = bad) ∧
      ∀ c < s.build.N, c < 16 → exec (.wr32 (BitVec.ofNat 16 (0x100 + 0x10 * c)) d) s = bad) ∧
    (s.run = false →
      exec (.wr32 0x00C d) s = (if d = 0 ∨ d = 2 then .next { s with cfg := { s.cfg with closeEv := d == 2 } } else bad) ∧
      exec (.wr32 0x01C d) s =
        (if d.toNat < 32 then .next { s with cfg := { s.cfg with shift := BitVec.ofNat 5 d.toNat } } else bad) ∧
      exec (.wr32 0x020 d) s = .next { s with cfg := { s.cfg with thresh := d } } ∧
      exec (.wr32 0x024 d) s = (if 1 ≤ d.toInt then .next { s with cfg := { s.cfg with win0 := d } } else bad) ∧
      exec (.wr32 0x028 d) s = (if 1 ≤ d.toInt then .next { s with cfg := { s.cfg with win1 := d } } else bad) ∧
      exec (.wr32 0x02C d) s = (if 0 ≤ d.toInt then .next { s with cfg := { s.cfg with extr := d } } else bad) ∧
      exec (.wr32 0x030 d) s = (if 0 ≤ d.toInt then .next { s with cfg := { s.cfg with inhib := d } } else bad) ∧
      exec (.wr32 0x034 d) s = (if 0 ≤ d.toInt then .next { s with cfg := { s.cfg with nrep := d } } else bad) ∧
      exec (.wr32 0x038 d) s = .next { s with cfg := { s.cfg with delay := d } } ∧
      ∀ c ch, c < s.build.N → c < 16 → s.chans[c]? = some ch →
        exec (.wr32 (BitVec.ofNat 16 (0x100 + 0x10 * c)) d) s =
          .next { s with chans := s.chans.set c { ch with nest := d } })

/-- A write to STATUS clears each sticky bit written as 1, ignores every other bit, is never refused and changes nothing
else (R52, R423). -/
def Obligations.StatusWriteClearsWrittenBits : Prop :=
  ∀ (s : State) (d : Word), ∃ e : Errors, exec (.wr32 0x010 d) s = .next { s with err := e } ∧
    ∀ c : Cause, e.get c = (s.err.get c && !d.getLsbD c.bit)

/-- R410, R411: a WR32 to CMD runs the command whose row the word matches, whatever RUN is; with Q >= NQ, and for a word of
no row, it changes nothing except that CMDERR is raised. -/
def Obligations.CommandWriteRunsTheCommand : Prop :=
  ∀ (s : State) (w : Word),
    (∀ i, decode (.cmd w) = .ok i → exec (.wr32 0x014 w) s = exec i s) ∧
    (∀ q, (if s.build.MUXED then 1 else s.build.N) ≤ q →
      decode (.cmd w) ∈ [.ok (.qavail q), .ok (.qread q), .ok (.qfree q), .ok (.qclear q)] →
      exec (.wr32 0x014 w) s = .next { s with err := { s.err with cmderr := true } }) ∧
    (isReservedCmd w = true → exec (.wr32 0x014 w) s = .next { s with err := { s.err with cmderr := true } })

/-- No host access and no command writes RAW or POOLDATA, DMA state or the acquisition slots (R107, R401). -/
def Obligations.HostNeverWritesSamples : Prop :=
  ∀ (i : Instr) (s t : State), fromHost i = true → exec i s = .next t →
    t.mem = s.mem ∧ t.boots = s.boots ∧ t.dmaPos = s.dmaPos ∧ t.evPend = s.evPend ∧ t.evKind = s.evKind ∧
    t.acqCur = s.acqCur ∧ t.acqOff = s.acqOff

-- DMA and service

/-- R200: a beat stores its word at RAW[p], advances p, and at a half boundary raises a completion, or DMAOVR if one is
pending. Every other byte and every other field is unchanged. -/
def Obligations.DmaBeatStoresAndAdvances : Prop :=
  (∀ d : Word, decode (.dma (1#1 ++ d)) = .ok (.dmaWr d)) ∧
  ∀ (s : State) (d : Word), 1 ≤ s.build.H → s.dmaPos < 2 * s.build.H →
    let edge := decide (s.dmaPos + 1 = s.build.H ∨ s.dmaPos + 1 = 2 * s.build.H)
    ∃ m : Memory,
      exec (.dmaWr d) s = .next
        { s with
          mem := m
          dmaPos := if s.dmaPos + 1 = 2 * s.build.H then 0 else s.dmaPos + 1
          evPend := s.evPend || edge
          evKind := if edge && !s.evPend then (if s.dmaPos + 1 = s.build.H then .half else .full) else s.evKind
          err := if edge && s.evPend then { s.err with dmaovr := true } else s.err } ∧
      rawWord { s with mem := m } s.dmaPos = d ∧
      ∀ a, (a < rawAddr s.dmaPos ∨ rawAddr s.dmaPos + 4 ≤ a) → readByte { s with mem := m } a = readByte s a

/-- R202: a completion serviced while RUN = 0 clears EVPEND and changes nothing else. -/
def Obligations.ServiceWhileStoppedOnlyClearsPending : Prop :=
  ∀ (s : State) (k : EvKind), s.evPend = true → s.evKind = k → s.run = false →
    exec (serviceOf k) s = .next { s with evPend := false }

/-- R203, R204, R205: the service of a completion while RUN = 1 clears EVPEND and runs the phases of the tick once each, in
order; nothing stays in transit. -/
def Obligations.ServiceRunsThePhasesInOrder : Prop :=
  ∀ (s : State) (k : EvKind), serviceDue k s →
    exec (serviceOf k) s =
      mapNext (fun t => { t with live := List.replicate t.build.N none, flow := List.replicate t.build.N none })
        (runInstrs (tickPhases s) { s with evPend := false })

/-- Every service of a completion completes, but for a tick that reaches the detector of a POLICY = 1 build (R206, R463).
It keeps the configuration, RUN, RESULT, the DMA position, EVKIND and the build, and writes no byte outside the pool
window. On the bypass route it keeps the delay line and every detector register (R204, R308). -/
def Obligations.TicksCompleteAndKeepTheRest : Prop :=
  ∀ (s : State) (k : EvKind), serviceDue k s → s.cfg.thresh.toInt < 0 ∨ s.build.POLICY = .energy →
    ∃ t : State, exec (serviceOf k) s = .next t ∧ t.evPend = false ∧
      t.build = s.build ∧ t.run = s.run ∧ t.cfg = s.cfg ∧ t.result = s.result ∧ t.dmaPos = s.dmaPos ∧
      t.evKind = s.evKind ∧ t.rdata = s.rdata ∧ t.boots = s.boots ∧ t.inputs = s.inputs ∧
      t.live = List.replicate s.build.N none ∧ t.flow = List.replicate s.build.N none ∧
      (s.cfg.thresh.toInt < 0 → t.det = s.det ∧ t.chans = s.chans ∧ t.dlSlot = s.dlSlot ∧ t.dlHead = s.dlHead) ∧
      ∀ a < 0x8000, readByte t a = readByte s a

/-- R310: a POLICY = 1 build refuses the DET phase, and so any tick with THRESH >= 0; ticks on the bypass route are
unaffected. -/
def Obligations.CentroidBuildsRefuseTheDetector : Prop :=
  ∀ (s : State) (k : EvKind), s.build.POLICY = .centroid →
    exec .det s = .refused .spectralCentroidPolicy ∧
    (serviceDue k s → 0 ≤ s.cfg.thresh.toInt → exec (serviceOf k) s = .refused .spectralCentroidPolicy) ∧
    (serviceDue k s → s.cfg.thresh.toInt < 0 → ∃ t : State, exec (serviceOf k) s = .next t)

-- Acquisition

/-- R230, R232: the ISR fills the current blocks from the half that is not being written, word base + i*N + c into sample i
of channel c, converted to low16(asr(w, SHIFT)), and sets ACQOFF to L; without current blocks it does nothing. Every
byte outside the current blocks is unchanged. -/
def Obligations.IsrDemultiplexesTheFinishedHalf : Prop :=
  decode (.phase 0b000) = .ok .isr ∧
  ∀ s : State,
    (slotAt s.acqCur 0 = none → exec .isr s = .next s) ∧
    ((slotAt s.acqCur 0).isSome = true → buildValid s.build = true → s.acqCur.length = s.build.N → s.acqCur.Nodup →
      (∀ o ∈ s.acqCur, o.isSome = true) →
      ∃ m : Memory,
        exec .isr s = .next { s with mem := m, acqOff := s.build.L } ∧
        (∀ c i h, c < s.build.N → i < s.build.L → slotAt s.acqCur c = some h →
          poolSample { s with mem := m } h i =
            BitVec.ofInt 16
              ((rawWord s ((if s.dmaPos < s.build.H then s.build.H else 0) + i * s.build.N + c)).toInt /
                2 ^ s.cfg.shift.toNat)) ∧
        ∀ a, (∀ h i, some h ∈ s.acqCur → i < s.build.L →
              a ≠ plinAddr (h * s.build.L + i) ∧ a ≠ plinAddr (h * s.build.L + i) + 1) →
          readByte { s with mem := m } a = readByte s a)

/-- R233, R236, with R110 and R111 for every ALLOC_CHOICE: filled blocks go on as the live blocks; the current slots are
renewed all or nothing; a failed allocation leaves FREE unchanged, counts in ALLOCFAIL and raises POOLFAIL. -/
def Obligations.AcquisitionSwapsAllOrNothing : Prop :=
  decode (.phase 0b001) = .ok .acq ∧
  ∀ s : State,
    let none' := List.replicate s.build.N (none : Slot)
    let failed := { s with cnt := { s.cnt with allocfail := s.cnt.allocfail + 1 }, err := { s.err with poolfail := true } }
    ((slotAt s.acqCur 0).isSome = true → s.acqOff = s.build.L →
      (s.build.N ≤ s.free.count true → ∃ (hs : List Handle) (f : List Bool) (k : Nat),
        exec .acq s = .next
          { s with acqCur := hs.map some, acqOff := 0, live := s.acqCur, flow := s.acqCur, free := f, draws := k } ∧
        hs.length = s.build.N ∧ tookBlocks s.free hs f) ∧
      (s.free.count true < s.build.N →
        exec .acq s = .next { failed with acqCur := none', acqOff := 0, live := s.acqCur, flow := s.acqCur })) ∧
    (slotAt s.acqCur 0 = none →
      (s.build.N ≤ s.free.count true → ∃ (hs : List Handle) (f : List Bool) (k : Nat),
        exec .acq s = .next
          { s with acqCur := hs.map some, acqOff := 0, live := none', flow := none', free := f, draws := k } ∧
        hs.length = s.build.N ∧ tookBlocks s.free hs f) ∧
      (s.free.count true < s.build.N → exec .acq s = .next { failed with live := none', flow := none' })) ∧
    ((slotAt s.acqCur 0).isSome = true → s.acqOff ≠ s.build.L →
      exec .acq s = .next { s with live := none', flow := none' })

-- Delay line

/-- R261, R262: with DELAY <= 0 or DELAY >= DCAP the delay line passes its input on and keeps its state; otherwise it
stores the input at the advancing head, hands on the blocks DELAY slots behind it and empties their slots. -/
def Obligations.DelayLineStoresAndEmits : Prop :=
  decode (.phase 0b010) = .ok .dl ∧
  ∀ s : State,
    (s.cfg.delay.toInt ≤ 0 ∨ (s.build.DCAP : Int) ≤ s.cfg.delay.toInt → exec .dl s = .next s) ∧
    (0 < s.cfg.delay.toInt → s.cfg.delay.toInt < (s.build.DCAP : Int) → ∀ t : Nat,
      let h := (s.dlHead + 1) % s.build.DCAP
      let row (c : Nat) := (dlRow s c).set h (slotAt s.flow c)
      (t : Int) = ((h : Int) - s.cfg.delay.toInt) % (s.build.DCAP : Int) →
      ∃ f : List Bool,
        exec .dl s = .next
          { s with
            dlHead := h
            dlSlot := (List.range s.build.N).map fun c => (row c).set t none
            flow := (List.range s.build.N).map fun c => slotAt (row c) t
            free := f } ∧
        releasedBlocks s.free (fun b => ∃ c < s.build.N, slotAt (dlRow s c) h = some b) f)

/-- R264: in a session with 0 < DELAY < DCAP, from an empty delay line, the blocks given to it in tick n leave it in tick
n + DELAY and in no other; the first DELAY ticks emit nothing. -/
def Obligations.DelayLineDelaysByExactlyDelayTicks : Prop :=
  ∀ (s : State) (xs : List (List Slot)),
    0 < s.cfg.delay.toInt → s.cfg.delay.toInt < (s.build.DCAP : Int) → s.dlHead < s.build.DCAP →
    s.dlSlot = List.replicate s.build.N (List.replicate s.build.DCAP none) →
    (∀ x ∈ xs, x.length = s.build.N) →
    ∀ n < xs.length,
      (feedDelayLine xs s).1[n]? =
        if n < s.cfg.delay.toNat then some (List.replicate s.build.N none) else xs[n - s.cfg.delay.toNat]?

-- Detector

/-- R293, R294, R296: for each present channel MAXSQ is the maximum and AVG the floored mean of the squared first
differences of the live block, carried on from PREV, and PREV becomes its last sample; an absent channel keeps all its
registers. -/
def Obligations.DetectorComputesBlockStatistics : Prop :=
  ∀ s : State, s.build.POLICY = .energy → 0 ≤ s.cfg.thresh.toInt → 1 ≤ s.build.L → s.build.L ≤ 2048 →
    s.chans.length = s.build.N → StatsInRange s →
    ∃ t : State, exec .det s = .next t ∧ t.chans.length = s.build.N ∧
      ∀ c ch, c < s.build.N → s.chans[c]? = some ch →
        (slotAt s.live c = none → t.chans[c]? = some ch) ∧
        ∀ h, slotAt s.live c = some h →
          let xs := (List.range s.build.L).map fun i => poolSample s h i
          let es := squaredDiffs ch.prev.toInt xs
          ∃ ch', t.chans[c]? = some ch' ∧ ch'.maxsq.toNat = es.foldl max 0 ∧ ch'.avg.toNat = es.sum / s.build.L ∧
            ch'.prev.toInt = (poolSample s h (s.build.L - 1)).toInt

/-- R295-R298, R300-R305: the detection flag, the re-arm outside the guard window, the active test, the noise windows,
the counters, the clamp, MUSTCLOSE, the noise path, and the blocks handed on or released. -/
def Obligations.DetectorRunsItsCounters : Prop :=
  ∀ s : State, s.build.POLICY = .energy → 0 ≤ s.cfg.thresh.toInt → LegalConfig s → s.chans.length = s.build.N →
    ∃ t : State, exec .det s = .next t ∧
      t = { s with det := t.det, chans := t.chans, err := t.err, free := t.free, flow := t.flow } ∧
      ∀ det : Bool,
        (det = true ↔ ∃ c h, c < s.build.N ∧ slotAt s.live c = some h ∧
          s.cfg.thresh.toInt * ((chanAt s c).nest.toNat : Int) < ((chanAt t c).maxsq.toNat : Int)) →
        let inhib := s.cfg.inhib.toInt
        let sig := s.det.sigcount.toInt
        let rearm := det && !decide (-inhib < sig ∧ sig ≤ 0)
        let sig1 := if rearm then s.cfg.extr.toInt else sig
        let active := decide (0 < sig1)
        let sig2 := max (sig1 - 1) (-inhib)
        let wdog1 := (if rearm then 0 else s.det.wdog) + (if sig2 = -inhib then 1 else 0)
        let due := decide (sig2 = -inhib ∧ 0 < s.cfg.nrep.toInt ∧ s.cfg.nrep.toInt ≤ (wdog1.toNat : Int))
        let noise := due && !active
        t.det.sigcount.toInt = sig2 ∧
        t.det.wdog = (if due then 0 else wdog1) ∧
        t.det.detcnt = (if active then s.det.detcnt + 1 else s.det.detcnt) ∧
        t.det.noisecnt = (if noise then s.det.noisecnt + 1 else s.det.noisecnt) ∧
        t.err = (if sig1 = 1 ∧ sig2 = 0 ∧ s.cfg.closeEv = true then { s.err with mustclose := true } else s.err) ∧
        (active = true ∨ noise = true → t.flow = s.flow ∧ t.free = s.free) ∧
        (active = false → noise = false →
          t.flow = List.replicate s.build.N none ∧ releasedBlocks s.free (fun h => some h ∈ s.flow) t.free) ∧
        ∀ c h ch, c < s.build.N → slotAt s.live c = some h → s.chans[c]? = some ch →
          (chanAt t c).nest = nestUpdate ch.nest (chanAt t c).avg (if active then s.cfg.win1 else s.cfg.win0)

/-- R299, R309: with a positive window the new noise estimate is NEST + trunc((AVG - NEST)/w), lies between the old NEST and
AVG, both included, and is NEST itself when w > |AVG - NEST|. -/
def Obligations.NoiseEstimateMovesTowardTheMean : Prop :=
  ∀ nest avg w : Word, 0 < w.toInt →
    ((nestUpdate nest avg w).toNat : Int) = (nest.toNat : Int) + ((avg.toNat : Int) - (nest.toNat : Int)).tdiv w.toInt ∧
    min nest.toNat avg.toNat ≤ (nestUpdate nest avg w).toNat ∧ (nestUpdate nest avg w).toNat ≤ max nest.toNat avg.toNat ∧
    (|(avg.toNat : Int) - (nest.toNat : Int)| < w.toInt → nestUpdate nest avg w = nest)

/-- R292: with THRESH < 0 the detector releases every delayed block it received, emits nothing, computes no statistic and
changes no detector register. -/
def Obligations.DisabledDetectorOnlyReleases : Prop :=
  ∀ s : State, s.build.POLICY = .energy → s.cfg.thresh.toInt < 0 → ∃ f : List Bool,
    exec .det s = .next { s with flow := List.replicate s.build.N none, free := f } ∧
    releasedBlocks s.free (fun h => some h ∈ s.flow) f

-- Multiplexer

/-- R330, R332, R334, R336, R337: a complete frame for which N blocks are free, once the blocks for occupied slots have
been released (`f`), is written to N free blocks, sample i of output b being sample b*(L/N) + i div N of channel i mod N;
they are pushed to queue 0 in order, the inputs are released and the slots emptied. Every byte outside the output blocks
is unchanged. -/
def Obligations.MultiplexerInterleavesTheFrame : Prop :=
  ∀ (s : State) (f : List Bool), buildValid s.build = true → s.build.MUXED = true → s.muxIn.length = s.build.N →
    let n := s.build.N
    let cur (k : Nat) := (slotAt s.muxIn k).or (slotAt s.flow k)
    let clash (k : Nat) := (slotAt s.muxIn k).isSome && (slotAt s.flow k).isSome
    (∀ k < n, (cur k).isSome = true) →
    releasedBlocks s.free (fun h => ∃ k < n, clash k = true ∧ slotAt s.flow k = some h) f →
    n ≤ f.count true → (∀ k h, k < n → cur k = some h → h < f.length ∧ f.getD h false = false) →
    ∃ (os : List Handle) (t : State),
      exec .mux s = .next t ∧
      t = { s with mem := t.mem, free := t.free, draws := t.draws, queues := t.queues,
                   cnt := { s.cnt with muxdrop := s.cnt.muxdrop + BitVec.ofNat 32 ((List.range n).countP clash) },
                   err := { s.err with qfull := t.err.qfull, muxovr := s.err.muxovr || (List.range n).any clash },
                   muxIn := List.replicate n none, flow := List.replicate n none } ∧
      os.length = n ∧ os.Nodup ∧ (∀ h ∈ os, f.getD h false = true) ∧
      (∀ b i h k, b < n → i < s.build.L → os[b]? = some h → cur (i % n) = some k →
        poolSample t h i = poolSample s k (b * (s.build.L / n) + i / n)) ∧
      t.queues = (os.foldl (fun s h => queuePush 0 h s) s).queues ∧
      (∀ h, h ∉ os → (t.free.getD h false = true ↔ f.getD h false = true ∨ ∃ k < n, cur k = some h)) ∧
      ∀ a, (∀ h i, h ∈ os → i < s.build.L →
            a ≠ plinAddr (h * s.build.L + i) ∧ a ≠ plinAddr (h * s.build.L + i) + 1) →
        readByte t a = readByte s a

/-- R332, R335: a block for an empty slot is held; one for an occupied slot is released, counted and MUXOVR raised; while
some slot stays empty nothing else happens. -/
def Obligations.MultiplexerWaitsForEveryChannel : Prop :=
  ∀ (s : State) (c : Nat), s.build.MUXED = true → s.muxIn.length = s.build.N → c < s.build.N →
    slotAt s.muxIn c = none → slotAt s.flow c = none →
    let clash (k : Nat) := (slotAt s.muxIn k).isSome && (slotAt s.flow k).isSome
    ∃ f : List Bool,
      exec .mux s = .next
        { s with
          flow := List.replicate s.build.N none
          muxIn := (List.range s.build.N).map fun k => (slotAt s.muxIn k).or (slotAt s.flow k)
          cnt := { s.cnt with muxdrop := s.cnt.muxdrop + BitVec.ofNat 32 ((List.range s.build.N).countP clash) }
          err := { s.err with muxovr := s.err.muxovr || (List.range s.build.N).any clash }
          free := f } ∧
      releasedBlocks s.free (fun h => ∃ k < s.build.N, clash k = true ∧ slotAt s.flow k = some h) f

/-- R333: a complete frame for which N blocks are not free is dropped whole: the inputs are released, the slots emptied,
MUXPOOLFAIL counted and MUXPOOL raised (`f`: the free bits once the blocks for occupied slots have been released). -/
def Obligations.MultiplexerDropsFrameWithoutBlocks : Prop :=
  ∀ (s : State) (f : List Bool),
    let n := s.build.N
    let cur (k : Nat) := (slotAt s.muxIn k).or (slotAt s.flow k)
    let clash (k : Nat) := (slotAt s.muxIn k).isSome && (slotAt s.flow k).isSome
    s.build.MUXED = true → s.muxIn.length = n → (∀ k < n, (cur k).isSome = true) →
    releasedBlocks s.free (fun h => ∃ k < n, clash k = true ∧ slotAt s.flow k = some h) f → f.count true < n →
    ∃ f' : List Bool,
      exec .mux s = .next
        { s with
          flow := List.replicate n none
          muxIn := List.replicate n none
          cnt := { s.cnt with muxdrop := s.cnt.muxdrop + BitVec.ofNat 32 ((List.range n).countP clash)
                              muxpoolfail := s.cnt.muxpoolfail + 1 }
          err := { s.err with muxpool := true, muxovr := s.err.muxovr || (List.range n).any clash }
          free := f' } ∧
      releasedBlocks f (fun h => ∃ k < n, cur k = some h) f'

-- Reset

/-- R80: the reset table, for every build; RAW and POOLDATA list no byte, so they are unspecified (U1, U2). A power cycle
takes every element of state to it (R500). -/
def Obligations.ResetGivesTheResetTable : Prop :=
  ∀ b : Build,
    let r := State.resetOf b
    r.run = false ∧ (∀ c : Cause, r.err.get c = false) ∧ r.evPend = false ∧ r.evKind = .half ∧ r.cfg.closeEv = false ∧
    r.cfg.shift = 0 ∧ r.cfg.thresh.toInt = -1 ∧ r.cfg.win0 = 1 ∧ r.cfg.win1 = 1 ∧ r.cfg.extr = 0 ∧ r.cfg.inhib = 0 ∧
    r.cfg.nrep = 0 ∧ r.cfg.delay = 0 ∧ r.det = { sigcount := 0, wdog := 0, detcnt := 0, noisecnt := 0 } ∧
    r.cnt = { allocfail := 0, muxdrop := 0, muxpoolfail := 0 } ∧ r.result = 0 ∧
    r.chans = List.replicate b.N { nest := 0, maxsq := 0, avg := 0, prev := 0 } ∧
    r.acqCur = List.replicate b.N none ∧ r.acqOff = 0 ∧ r.dmaPos = 0 ∧
    r.dlSlot = List.replicate b.N (List.replicate b.DCAP none) ∧ r.dlHead = 0 ∧ r.muxIn = List.replicate b.N none ∧
    r.queues = List.replicate (if b.MUXED then 1 else b.N)
      { slots := List.replicate (b.QCAP + 1) none, head := 0, tail := 0, borrow := false, drop := 0 } ∧
    r.free = List.replicate b.NBLK true ∧ r.mem = [] ∧
    ∀ (s : State) (rest : List Input), s.build = b → buildValid b = true → s.inputs = .power :: rest →
      step s = .next { r with draws := s.draws, boots := s.boots + 1, inputs := rest }

/-- The invariants hold after reset, for every build that meets the constraints (R80). -/
def Obligations.ResetMeetsTheInvariants : Prop :=
  ∀ b : Build, buildValid b = true →
    BlockInvariant (State.resetOf b) ∧ LegalConfig (State.resetOf b) ∧ StatsInRange (State.resetOf b) ∧
      Memory.wf (State.resetOf b).mem = true

-- Invariants of the step

/-- Every step keeps the sizes and ranges of the state (R57-R67), and the build (R7). -/
def Obligations.StepKeepsTheShape : Prop :=
  ∀ s t : State, Shaped s → step s = .next t → Shaped t ∧ t.build = s.build

/-- Every step keeps the configuration registers legal, PREV a sample, and MAXSQ and AVG in 0..0xFFFE0001 (R46-R50, R57,
R294). -/
def Obligations.StepKeepsRegisterRanges : Prop :=
  ∀ s t : State, Shaped s → LegalConfig s → StatsInRange s → step s = .next t → LegalConfig t ∧ StatsInRange t

/-- Every step keeps memory in its canonical form. -/
def Obligations.StepKeepsMemoryForm : Prop :=
  ∀ s t : State, Memory.wf s.mem = true → step s = .next t → Memory.wf t.mem = true

/-- R70, with R60 and R72: every step of the host, the DMA agent, the event sequencer and the power keeps the invariant
that an allocated block is in exactly one place and a free one in none. (A lone phase code leaves blocks in transit:
log 4.) -/
def Obligations.StepKeepsOwnership : Prop :=
  ∀ s t : State, BlockInvariant s → nextIsPhase s = false → step s = .next t → BlockInvariant t

/-- R71: SIGCOUNT >= -INHIB is kept by every step but an INHIB write. -/
def Obligations.StepKeepsSigcountAboveGuard : Prop :=
  ∀ s t : State, LegalConfig s → -s.cfg.inhib.toInt ≤ s.det.sigcount.toInt → nextWrites 0x030 s = false →
    step s = .next t → -t.cfg.inhib.toInt ≤ t.det.sigcount.toInt

-- Rules of the whole machine

/-- The configuration registers do not change while RUN = 1, whatever arrives but a power cycle (R81, R512). -/
def Obligations.ConfigurationIsFrozenInASession : Prop :=
  ∀ s t : State, s.run = true → nextIsPower s = false → step s = .next t → t.cfg = s.cfg

/-- RUN changes only by START, STOP and reset (R68). -/
def Obligations.OnlySessionCommandsChangeRun : Prop :=
  ∀ (i : Instr) (s t : State), touchesRun i = false → exec i s = .next t → t.run = s.run

/-- A sticky STATUS bit that is set stays set until a host write of 1 to it, or reset (R69, R451). -/
def Obligations.StickyBitsStayUntilCleared : Prop :=
  ∀ (s t : State) (c : Cause), s.err.get c = true → nextWrites 0x010 s = false → nextIsPower s = false →
    step s = .next t → t.err.get c = true

/-- The detector registers change only by a tick, the DET phase, DETRST, and a write to CMD or NEST: START, STOP and the
queue commands leave them unchanged (R54, R311). -/
def Obligations.DetectorRegistersKeptByTheRest : Prop :=
  ∀ (i : Instr) (s t : State),
    (∀ a d, i ≠ .wr32 a d) → i ≠ .detrst → i ≠ .det → i ≠ .evHalf → i ≠ .evFull → exec i s = .next t →
    t.det = s.det ∧ t.chans = s.chans

/-- R513: the samples of a lent block are stable: a step of the host, the DMA agent or the event sequencer after which the
queue still lends the block leaves every sample of it as it was. -/
def Obligations.LentBlocksAreStable : Prop :=
  ∀ (s t : State) (q h : Nat),
    BlockInvariant s → nextIsPhase s = false → nextIsPower s = false → step s = .next t → q < s.build.NQ →
    (queueAt s q).borrow = true → queueOldest (queueAt s q) = some h →
    (queueAt t q).borrow = true → queueOldest (queueAt t q) = some h →
    ∀ i < s.build.L, poolSample t h i = poolSample s h i
end

