-- ==== Sys2Proof/Laws/State.lean ====
section
/-! SUPPORT. What each named update of the state gives in each field; simp rewrites with these, so that no later proof
unfolds an update. -/

namespace Sys2Proof.Machine

@[simp] theorem raise_build (c : Cause) (s : State) : (raise c s).build = s.build := rfl
@[simp] theorem raise_run (c : Cause) (s : State) : (raise c s).run = s.run := rfl
@[simp] theorem raise_err (c : Cause) (s : State) : (raise c s).err = s.err.set c := rfl
@[simp] theorem raise_cfg (c : Cause) (s : State) : (raise c s).cfg = s.cfg := rfl
@[simp] theorem raise_det (c : Cause) (s : State) : (raise c s).det = s.det := rfl
@[simp] theorem raise_chans (c : Cause) (s : State) : (raise c s).chans = s.chans := rfl
@[simp] theorem raise_cnt (c : Cause) (s : State) : (raise c s).cnt = s.cnt := rfl
@[simp] theorem raise_result (c : Cause) (s : State) : (raise c s).result = s.result := rfl
@[simp] theorem raise_acqCur (c : Cause) (s : State) : (raise c s).acqCur = s.acqCur := rfl
@[simp] theorem raise_acqOff (c : Cause) (s : State) : (raise c s).acqOff = s.acqOff := rfl
@[simp] theorem raise_mem (c : Cause) (s : State) : (raise c s).mem = s.mem := rfl
@[simp] theorem raise_dmaPos (c : Cause) (s : State) : (raise c s).dmaPos = s.dmaPos := rfl
@[simp] theorem raise_evPend (c : Cause) (s : State) : (raise c s).evPend = s.evPend := rfl
@[simp] theorem raise_evKind (c : Cause) (s : State) : (raise c s).evKind = s.evKind := rfl
@[simp] theorem raise_dlSlot (c : Cause) (s : State) : (raise c s).dlSlot = s.dlSlot := rfl
@[simp] theorem raise_dlHead (c : Cause) (s : State) : (raise c s).dlHead = s.dlHead := rfl
@[simp] theorem raise_muxIn (c : Cause) (s : State) : (raise c s).muxIn = s.muxIn := rfl
@[simp] theorem raise_queues (c : Cause) (s : State) : (raise c s).queues = s.queues := rfl
@[simp] theorem raise_free (c : Cause) (s : State) : (raise c s).free = s.free := rfl
@[simp] theorem raise_rdata (c : Cause) (s : State) : (raise c s).rdata = s.rdata := rfl
@[simp] theorem raise_live (c : Cause) (s : State) : (raise c s).live = s.live := rfl
@[simp] theorem raise_flow (c : Cause) (s : State) : (raise c s).flow = s.flow := rfl
@[simp] theorem raise_draws (c : Cause) (s : State) : (raise c s).draws = s.draws := rfl
@[simp] theorem raise_boots (c : Cause) (s : State) : (raise c s).boots = s.boots := rfl
@[simp] theorem raise_inputs (c : Cause) (s : State) : (raise c s).inputs = s.inputs := rfl

@[simp] theorem setResult_build (w : Word) (s : State) : (setResult w s).build = s.build := rfl
@[simp] theorem setResult_run (w : Word) (s : State) : (setResult w s).run = s.run := rfl
@[simp] theorem setResult_err (w : Word) (s : State) : (setResult w s).err = s.err := rfl
@[simp] theorem setResult_cfg (w : Word) (s : State) : (setResult w s).cfg = s.cfg := rfl
@[simp] theorem setResult_det (w : Word) (s : State) : (setResult w s).det = s.det := rfl
@[simp] theorem setResult_chans (w : Word) (s : State) : (setResult w s).chans = s.chans := rfl
@[simp] theorem setResult_cnt (w : Word) (s : State) : (setResult w s).cnt = s.cnt := rfl
@[simp] theorem setResult_result (w : Word) (s : State) : (setResult w s).result = w := rfl
@[simp] theorem setResult_acqCur (w : Word) (s : State) : (setResult w s).acqCur = s.acqCur := rfl
@[simp] theorem setResult_acqOff (w : Word) (s : State) : (setResult w s).acqOff = s.acqOff := rfl
@[simp] theorem setResult_mem (w : Word) (s : State) : (setResult w s).mem = s.mem := rfl
@[simp] theorem setResult_dmaPos (w : Word) (s : State) : (setResult w s).dmaPos = s.dmaPos := rfl
@[simp] theorem setResult_evPend (w : Word) (s : State) : (setResult w s).evPend = s.evPend := rfl
@[simp] theorem setResult_evKind (w : Word) (s : State) : (setResult w s).evKind = s.evKind := rfl
@[simp] theorem setResult_dlSlot (w : Word) (s : State) : (setResult w s).dlSlot = s.dlSlot := rfl
@[simp] theorem setResult_dlHead (w : Word) (s : State) : (setResult w s).dlHead = s.dlHead := rfl
@[simp] theorem setResult_muxIn (w : Word) (s : State) : (setResult w s).muxIn = s.muxIn := rfl
@[simp] theorem setResult_queues (w : Word) (s : State) : (setResult w s).queues = s.queues := rfl
@[simp] theorem setResult_free (w : Word) (s : State) : (setResult w s).free = s.free := rfl
@[simp] theorem setResult_rdata (w : Word) (s : State) : (setResult w s).rdata = s.rdata := rfl
@[simp] theorem setResult_live (w : Word) (s : State) : (setResult w s).live = s.live := rfl
@[simp] theorem setResult_flow (w : Word) (s : State) : (setResult w s).flow = s.flow := rfl
@[simp] theorem setResult_draws (w : Word) (s : State) : (setResult w s).draws = s.draws := rfl
@[simp] theorem setResult_boots (w : Word) (s : State) : (setResult w s).boots = s.boots := rfl
@[simp] theorem setResult_inputs (w : Word) (s : State) : (setResult w s).inputs = s.inputs := rfl

@[simp] theorem answerRead_build (w : Word) (s : State) : (answerRead w s).build = s.build := rfl
@[simp] theorem answerRead_run (w : Word) (s : State) : (answerRead w s).run = s.run := rfl
@[simp] theorem answerRead_err (w : Word) (s : State) : (answerRead w s).err = s.err := rfl
@[simp] theorem answerRead_cfg (w : Word) (s : State) : (answerRead w s).cfg = s.cfg := rfl
@[simp] theorem answerRead_det (w : Word) (s : State) : (answerRead w s).det = s.det := rfl
@[simp] theorem answerRead_chans (w : Word) (s : State) : (answerRead w s).chans = s.chans := rfl
@[simp] theorem answerRead_cnt (w : Word) (s : State) : (answerRead w s).cnt = s.cnt := rfl
@[simp] theorem answerRead_result (w : Word) (s : State) : (answerRead w s).result = s.result := rfl
@[simp] theorem answerRead_acqCur (w : Word) (s : State) : (answerRead w s).acqCur = s.acqCur := rfl
@[simp] theorem answerRead_acqOff (w : Word) (s : State) : (answerRead w s).acqOff = s.acqOff := rfl
@[simp] theorem answerRead_mem (w : Word) (s : State) : (answerRead w s).mem = s.mem := rfl
@[simp] theorem answerRead_dmaPos (w : Word) (s : State) : (answerRead w s).dmaPos = s.dmaPos := rfl
@[simp] theorem answerRead_evPend (w : Word) (s : State) : (answerRead w s).evPend = s.evPend := rfl
@[simp] theorem answerRead_evKind (w : Word) (s : State) : (answerRead w s).evKind = s.evKind := rfl
@[simp] theorem answerRead_dlSlot (w : Word) (s : State) : (answerRead w s).dlSlot = s.dlSlot := rfl
@[simp] theorem answerRead_dlHead (w : Word) (s : State) : (answerRead w s).dlHead = s.dlHead := rfl
@[simp] theorem answerRead_muxIn (w : Word) (s : State) : (answerRead w s).muxIn = s.muxIn := rfl
@[simp] theorem answerRead_queues (w : Word) (s : State) : (answerRead w s).queues = s.queues := rfl
@[simp] theorem answerRead_free (w : Word) (s : State) : (answerRead w s).free = s.free := rfl
@[simp] theorem answerRead_rdata (w : Word) (s : State) : (answerRead w s).rdata = w := rfl
@[simp] theorem answerRead_live (w : Word) (s : State) : (answerRead w s).live = s.live := rfl
@[simp] theorem answerRead_flow (w : Word) (s : State) : (answerRead w s).flow = s.flow := rfl
@[simp] theorem answerRead_draws (w : Word) (s : State) : (answerRead w s).draws = s.draws := rfl
@[simp] theorem answerRead_boots (w : Word) (s : State) : (answerRead w s).boots = s.boots := rfl
@[simp] theorem answerRead_inputs (w : Word) (s : State) : (answerRead w s).inputs = s.inputs := rfl

@[simp] theorem takeBlock_build (h : Handle) (s : State) : (takeBlock h s).build = s.build := rfl
@[simp] theorem takeBlock_run (h : Handle) (s : State) : (takeBlock h s).run = s.run := rfl
@[simp] theorem takeBlock_err (h : Handle) (s : State) : (takeBlock h s).err = s.err := rfl
@[simp] theorem takeBlock_cfg (h : Handle) (s : State) : (takeBlock h s).cfg = s.cfg := rfl
@[simp] theorem takeBlock_det (h : Handle) (s : State) : (takeBlock h s).det = s.det := rfl
@[simp] theorem takeBlock_chans (h : Handle) (s : State) : (takeBlock h s).chans = s.chans := rfl
@[simp] theorem takeBlock_cnt (h : Handle) (s : State) : (takeBlock h s).cnt = s.cnt := rfl
@[simp] theorem takeBlock_result (h : Handle) (s : State) : (takeBlock h s).result = s.result := rfl
@[simp] theorem takeBlock_acqCur (h : Handle) (s : State) : (takeBlock h s).acqCur = s.acqCur := rfl
@[simp] theorem takeBlock_acqOff (h : Handle) (s : State) : (takeBlock h s).acqOff = s.acqOff := rfl
@[simp] theorem takeBlock_mem (h : Handle) (s : State) : (takeBlock h s).mem = s.mem := rfl
@[simp] theorem takeBlock_dmaPos (h : Handle) (s : State) : (takeBlock h s).dmaPos = s.dmaPos := rfl
@[simp] theorem takeBlock_evPend (h : Handle) (s : State) : (takeBlock h s).evPend = s.evPend := rfl
@[simp] theorem takeBlock_evKind (h : Handle) (s : State) : (takeBlock h s).evKind = s.evKind := rfl
@[simp] theorem takeBlock_dlSlot (h : Handle) (s : State) : (takeBlock h s).dlSlot = s.dlSlot := rfl
@[simp] theorem takeBlock_dlHead (h : Handle) (s : State) : (takeBlock h s).dlHead = s.dlHead := rfl
@[simp] theorem takeBlock_muxIn (h : Handle) (s : State) : (takeBlock h s).muxIn = s.muxIn := rfl
@[simp] theorem takeBlock_queues (h : Handle) (s : State) : (takeBlock h s).queues = s.queues := rfl
@[simp] theorem takeBlock_free (h : Handle) (s : State) : (takeBlock h s).free = s.free.set h false := rfl
@[simp] theorem takeBlock_rdata (h : Handle) (s : State) : (takeBlock h s).rdata = s.rdata := rfl
@[simp] theorem takeBlock_live (h : Handle) (s : State) : (takeBlock h s).live = s.live := rfl
@[simp] theorem takeBlock_flow (h : Handle) (s : State) : (takeBlock h s).flow = s.flow := rfl
@[simp] theorem takeBlock_draws (h : Handle) (s : State) : (takeBlock h s).draws = s.draws := rfl
@[simp] theorem takeBlock_boots (h : Handle) (s : State) : (takeBlock h s).boots = s.boots := rfl
@[simp] theorem takeBlock_inputs (h : Handle) (s : State) : (takeBlock h s).inputs = s.inputs := rfl

@[simp] theorem release_build (o : Slot) (s : State) : (release o s).build = s.build := by cases o <;> rfl
@[simp] theorem release_run (o : Slot) (s : State) : (release o s).run = s.run := by cases o <;> rfl
@[simp] theorem release_err (o : Slot) (s : State) : (release o s).err = s.err := by cases o <;> rfl
@[simp] theorem release_cfg (o : Slot) (s : State) : (release o s).cfg = s.cfg := by cases o <;> rfl
@[simp] theorem release_det (o : Slot) (s : State) : (release o s).det = s.det := by cases o <;> rfl
@[simp] theorem release_chans (o : Slot) (s : State) : (release o s).chans = s.chans := by cases o <;> rfl
@[simp] theorem release_cnt (o : Slot) (s : State) : (release o s).cnt = s.cnt := by cases o <;> rfl
@[simp] theorem release_result (o : Slot) (s : State) : (release o s).result = s.result := by cases o <;> rfl
@[simp] theorem release_acqCur (o : Slot) (s : State) : (release o s).acqCur = s.acqCur := by cases o <;> rfl
@[simp] theorem release_acqOff (o : Slot) (s : State) : (release o s).acqOff = s.acqOff := by cases o <;> rfl
@[simp] theorem release_mem (o : Slot) (s : State) : (release o s).mem = s.mem := by cases o <;> rfl
@[simp] theorem release_dmaPos (o : Slot) (s : State) : (release o s).dmaPos = s.dmaPos := by cases o <;> rfl
@[simp] theorem release_evPend (o : Slot) (s : State) : (release o s).evPend = s.evPend := by cases o <;> rfl
@[simp] theorem release_evKind (o : Slot) (s : State) : (release o s).evKind = s.evKind := by cases o <;> rfl
@[simp] theorem release_dlSlot (o : Slot) (s : State) : (release o s).dlSlot = s.dlSlot := by cases o <;> rfl
@[simp] theorem release_dlHead (o : Slot) (s : State) : (release o s).dlHead = s.dlHead := by cases o <;> rfl
@[simp] theorem release_muxIn (o : Slot) (s : State) : (release o s).muxIn = s.muxIn := by cases o <;> rfl
@[simp] theorem release_queues (o : Slot) (s : State) : (release o s).queues = s.queues := by cases o <;> rfl
@[simp] theorem release_rdata (o : Slot) (s : State) : (release o s).rdata = s.rdata := by cases o <;> rfl
@[simp] theorem release_live (o : Slot) (s : State) : (release o s).live = s.live := by cases o <;> rfl
@[simp] theorem release_flow (o : Slot) (s : State) : (release o s).flow = s.flow := by cases o <;> rfl
@[simp] theorem release_draws (o : Slot) (s : State) : (release o s).draws = s.draws := by cases o <;> rfl
@[simp] theorem release_boots (o : Slot) (s : State) : (release o s).boots = s.boots := by cases o <;> rfl
@[simp] theorem release_inputs (o : Slot) (s : State) : (release o s).inputs = s.inputs := by cases o <;> rfl

@[simp] theorem setQueue_build (q : Nat) (u : Queue) (s : State) : (setQueue q u s).build = s.build := rfl
@[simp] theorem setQueue_run (q : Nat) (u : Queue) (s : State) : (setQueue q u s).run = s.run := rfl
@[simp] theorem setQueue_err (q : Nat) (u : Queue) (s : State) : (setQueue q u s).err = s.err := rfl
@[simp] theorem setQueue_cfg (q : Nat) (u : Queue) (s : State) : (setQueue q u s).cfg = s.cfg := rfl
@[simp] theorem setQueue_det (q : Nat) (u : Queue) (s : State) : (setQueue q u s).det = s.det := rfl
@[simp] theorem setQueue_chans (q : Nat) (u : Queue) (s : State) : (setQueue q u s).chans = s.chans := rfl
@[simp] theorem setQueue_cnt (q : Nat) (u : Queue) (s : State) : (setQueue q u s).cnt = s.cnt := rfl
@[simp] theorem setQueue_result (q : Nat) (u : Queue) (s : State) : (setQueue q u s).result = s.result := rfl
@[simp] theorem setQueue_acqCur (q : Nat) (u : Queue) (s : State) : (setQueue q u s).acqCur = s.acqCur := rfl
@[simp] theorem setQueue_acqOff (q : Nat) (u : Queue) (s : State) : (setQueue q u s).acqOff = s.acqOff := rfl
@[simp] theorem setQueue_mem (q : Nat) (u : Queue) (s : State) : (setQueue q u s).mem = s.mem := rfl
@[simp] theorem setQueue_dmaPos (q : Nat) (u : Queue) (s : State) : (setQueue q u s).dmaPos = s.dmaPos := rfl
@[simp] theorem setQueue_evPend (q : Nat) (u : Queue) (s : State) : (setQueue q u s).evPend = s.evPend := rfl
@[simp] theorem setQueue_evKind (q : Nat) (u : Queue) (s : State) : (setQueue q u s).evKind = s.evKind := rfl
@[simp] theorem setQueue_dlSlot (q : Nat) (u : Queue) (s : State) : (setQueue q u s).dlSlot = s.dlSlot := rfl
@[simp] theorem setQueue_dlHead (q : Nat) (u : Queue) (s : State) : (setQueue q u s).dlHead = s.dlHead := rfl
@[simp] theorem setQueue_muxIn (q : Nat) (u : Queue) (s : State) : (setQueue q u s).muxIn = s.muxIn := rfl
@[simp] theorem setQueue_queues (q : Nat) (u : Queue) (s : State) : (setQueue q u s).queues = s.queues.set q u := rfl
@[simp] theorem setQueue_free (q : Nat) (u : Queue) (s : State) : (setQueue q u s).free = s.free := rfl
@[simp] theorem setQueue_rdata (q : Nat) (u : Queue) (s : State) : (setQueue q u s).rdata = s.rdata := rfl
@[simp] theorem setQueue_live (q : Nat) (u : Queue) (s : State) : (setQueue q u s).live = s.live := rfl
@[simp] theorem setQueue_flow (q : Nat) (u : Queue) (s : State) : (setQueue q u s).flow = s.flow := rfl
@[simp] theorem setQueue_draws (q : Nat) (u : Queue) (s : State) : (setQueue q u s).draws = s.draws := rfl
@[simp] theorem setQueue_boots (q : Nat) (u : Queue) (s : State) : (setQueue q u s).boots = s.boots := rfl
@[simp] theorem setQueue_inputs (q : Nat) (u : Queue) (s : State) : (setQueue q u s).inputs = s.inputs := rfl

@[simp] theorem writeHalf_build (a : Nat) (v : Sample) (s : State) : (writeHalf a v s).build = s.build := rfl
@[simp] theorem writeHalf_run (a : Nat) (v : Sample) (s : State) : (writeHalf a v s).run = s.run := rfl
@[simp] theorem writeHalf_err (a : Nat) (v : Sample) (s : State) : (writeHalf a v s).err = s.err := rfl
@[simp] theorem writeHalf_cfg (a : Nat) (v : Sample) (s : State) : (writeHalf a v s).cfg = s.cfg := rfl
@[simp] theorem writeHalf_det (a : Nat) (v : Sample) (s : State) : (writeHalf a v s).det = s.det := rfl
@[simp] theorem writeHalf_chans (a : Nat) (v : Sample) (s : State) : (writeHalf a v s).chans = s.chans := rfl
@[simp] theorem writeHalf_cnt (a : Nat) (v : Sample) (s : State) : (writeHalf a v s).cnt = s.cnt := rfl
@[simp] theorem writeHalf_result (a : Nat) (v : Sample) (s : State) : (writeHalf a v s).result = s.result := rfl
@[simp] theorem writeHalf_acqCur (a : Nat) (v : Sample) (s : State) : (writeHalf a v s).acqCur = s.acqCur := rfl
@[simp] theorem writeHalf_acqOff (a : Nat) (v : Sample) (s : State) : (writeHalf a v s).acqOff = s.acqOff := rfl
@[simp] theorem writeHalf_dmaPos (a : Nat) (v : Sample) (s : State) : (writeHalf a v s).dmaPos = s.dmaPos := rfl
@[simp] theorem writeHalf_evPend (a : Nat) (v : Sample) (s : State) : (writeHalf a v s).evPend = s.evPend := rfl
@[simp] theorem writeHalf_evKind (a : Nat) (v : Sample) (s : State) : (writeHalf a v s).evKind = s.evKind := rfl
@[simp] theorem writeHalf_dlSlot (a : Nat) (v : Sample) (s : State) : (writeHalf a v s).dlSlot = s.dlSlot := rfl
@[simp] theorem writeHalf_dlHead (a : Nat) (v : Sample) (s : State) : (writeHalf a v s).dlHead = s.dlHead := rfl
@[simp] theorem writeHalf_muxIn (a : Nat) (v : Sample) (s : State) : (writeHalf a v s).muxIn = s.muxIn := rfl
@[simp] theorem writeHalf_queues (a : Nat) (v : Sample) (s : State) : (writeHalf a v s).queues = s.queues := rfl
@[simp] theorem writeHalf_free (a : Nat) (v : Sample) (s : State) : (writeHalf a v s).free = s.free := rfl
@[simp] theorem writeHalf_rdata (a : Nat) (v : Sample) (s : State) : (writeHalf a v s).rdata = s.rdata := rfl
@[simp] theorem writeHalf_live (a : Nat) (v : Sample) (s : State) : (writeHalf a v s).live = s.live := rfl
@[simp] theorem writeHalf_flow (a : Nat) (v : Sample) (s : State) : (writeHalf a v s).flow = s.flow := rfl
@[simp] theorem writeHalf_draws (a : Nat) (v : Sample) (s : State) : (writeHalf a v s).draws = s.draws := rfl
@[simp] theorem writeHalf_boots (a : Nat) (v : Sample) (s : State) : (writeHalf a v s).boots = s.boots := rfl
@[simp] theorem writeHalf_inputs (a : Nat) (v : Sample) (s : State) : (writeHalf a v s).inputs = s.inputs := rfl

@[simp] theorem writeRaw_build (j : Nat) (w : Word) (s : State) : (writeRaw j w s).build = s.build := rfl
@[simp] theorem writeRaw_run (j : Nat) (w : Word) (s : State) : (writeRaw j w s).run = s.run := rfl
@[simp] theorem writeRaw_err (j : Nat) (w : Word) (s : State) : (writeRaw j w s).err = s.err := rfl
@[simp] theorem writeRaw_cfg (j : Nat) (w : Word) (s : State) : (writeRaw j w s).cfg = s.cfg := rfl
@[simp] theorem writeRaw_det (j : Nat) (w : Word) (s : State) : (writeRaw j w s).det = s.det := rfl
@[simp] theorem writeRaw_chans (j : Nat) (w : Word) (s : State) : (writeRaw j w s).chans = s.chans := rfl
@[simp] theorem writeRaw_cnt (j : Nat) (w : Word) (s : State) : (writeRaw j w s).cnt = s.cnt := rfl
@[simp] theorem writeRaw_result (j : Nat) (w : Word) (s : State) : (writeRaw j w s).result = s.result := rfl
@[simp] theorem writeRaw_acqCur (j : Nat) (w : Word) (s : State) : (writeRaw j w s).acqCur = s.acqCur := rfl
@[simp] theorem writeRaw_acqOff (j : Nat) (w : Word) (s : State) : (writeRaw j w s).acqOff = s.acqOff := rfl
@[simp] theorem writeRaw_dmaPos (j : Nat) (w : Word) (s : State) : (writeRaw j w s).dmaPos = s.dmaPos := rfl
@[simp] theorem writeRaw_evPend (j : Nat) (w : Word) (s : State) : (writeRaw j w s).evPend = s.evPend := rfl
@[simp] theorem writeRaw_evKind (j : Nat) (w : Word) (s : State) : (writeRaw j w s).evKind = s.evKind := rfl
@[simp] theorem writeRaw_dlSlot (j : Nat) (w : Word) (s : State) : (writeRaw j w s).dlSlot = s.dlSlot := rfl
@[simp] theorem writeRaw_dlHead (j : Nat) (w : Word) (s : State) : (writeRaw j w s).dlHead = s.dlHead := rfl
@[simp] theorem writeRaw_muxIn (j : Nat) (w : Word) (s : State) : (writeRaw j w s).muxIn = s.muxIn := rfl
@[simp] theorem writeRaw_queues (j : Nat) (w : Word) (s : State) : (writeRaw j w s).queues = s.queues := rfl
@[simp] theorem writeRaw_free (j : Nat) (w : Word) (s : State) : (writeRaw j w s).free = s.free := rfl
@[simp] theorem writeRaw_rdata (j : Nat) (w : Word) (s : State) : (writeRaw j w s).rdata = s.rdata := rfl
@[simp] theorem writeRaw_live (j : Nat) (w : Word) (s : State) : (writeRaw j w s).live = s.live := rfl
@[simp] theorem writeRaw_flow (j : Nat) (w : Word) (s : State) : (writeRaw j w s).flow = s.flow := rfl
@[simp] theorem writeRaw_draws (j : Nat) (w : Word) (s : State) : (writeRaw j w s).draws = s.draws := rfl
@[simp] theorem writeRaw_boots (j : Nat) (w : Word) (s : State) : (writeRaw j w s).boots = s.boots := rfl
@[simp] theorem writeRaw_inputs (j : Nat) (w : Word) (s : State) : (writeRaw j w s).inputs = s.inputs := rfl

@[simp] theorem writeSample_build (h i : Nat) (v : Sample) (s : State) : (writeSample h i v s).build = s.build := rfl
@[simp] theorem writeSample_run (h i : Nat) (v : Sample) (s : State) : (writeSample h i v s).run = s.run := rfl
@[simp] theorem writeSample_err (h i : Nat) (v : Sample) (s : State) : (writeSample h i v s).err = s.err := rfl
@[simp] theorem writeSample_cfg (h i : Nat) (v : Sample) (s : State) : (writeSample h i v s).cfg = s.cfg := rfl
@[simp] theorem writeSample_det (h i : Nat) (v : Sample) (s : State) : (writeSample h i v s).det = s.det := rfl
@[simp] theorem writeSample_chans (h i : Nat) (v : Sample) (s : State) : (writeSample h i v s).chans = s.chans := rfl
@[simp] theorem writeSample_cnt (h i : Nat) (v : Sample) (s : State) : (writeSample h i v s).cnt = s.cnt := rfl
@[simp] theorem writeSample_result (h i : Nat) (v : Sample) (s : State) : (writeSample h i v s).result = s.result := rfl
@[simp] theorem writeSample_acqCur (h i : Nat) (v : Sample) (s : State) : (writeSample h i v s).acqCur = s.acqCur := rfl
@[simp] theorem writeSample_acqOff (h i : Nat) (v : Sample) (s : State) : (writeSample h i v s).acqOff = s.acqOff := rfl
@[simp] theorem writeSample_dmaPos (h i : Nat) (v : Sample) (s : State) : (writeSample h i v s).dmaPos = s.dmaPos := rfl
@[simp] theorem writeSample_evPend (h i : Nat) (v : Sample) (s : State) : (writeSample h i v s).evPend = s.evPend := rfl
@[simp] theorem writeSample_evKind (h i : Nat) (v : Sample) (s : State) : (writeSample h i v s).evKind = s.evKind := rfl
@[simp] theorem writeSample_dlSlot (h i : Nat) (v : Sample) (s : State) : (writeSample h i v s).dlSlot = s.dlSlot := rfl
@[simp] theorem writeSample_dlHead (h i : Nat) (v : Sample) (s : State) : (writeSample h i v s).dlHead = s.dlHead := rfl
@[simp] theorem writeSample_muxIn (h i : Nat) (v : Sample) (s : State) : (writeSample h i v s).muxIn = s.muxIn := rfl
@[simp] theorem writeSample_queues (h i : Nat) (v : Sample) (s : State) : (writeSample h i v s).queues = s.queues := rfl
@[simp] theorem writeSample_free (h i : Nat) (v : Sample) (s : State) : (writeSample h i v s).free = s.free := rfl
@[simp] theorem writeSample_rdata (h i : Nat) (v : Sample) (s : State) : (writeSample h i v s).rdata = s.rdata := rfl
@[simp] theorem writeSample_live (h i : Nat) (v : Sample) (s : State) : (writeSample h i v s).live = s.live := rfl
@[simp] theorem writeSample_flow (h i : Nat) (v : Sample) (s : State) : (writeSample h i v s).flow = s.flow := rfl
@[simp] theorem writeSample_draws (h i : Nat) (v : Sample) (s : State) : (writeSample h i v s).draws = s.draws := rfl
@[simp] theorem writeSample_boots (h i : Nat) (v : Sample) (s : State) : (writeSample h i v s).boots = s.boots := rfl
@[simp] theorem writeSample_inputs (h i : Nat) (v : Sample) (s : State) : (writeSample h i v s).inputs = s.inputs := rfl

@[simp] theorem release_none_free (s : State) : (release none s).free = s.free := rfl
@[simp] theorem release_some_free (h : Handle) (s : State) : (release (some h) s).free = s.free.set h true := rfl

end Sys2Proof.Machine
end

