-- ==== Sys2Proof/Laws/Pool.lean ====
section
/-! SUPPORT. The block pool: what a release and an allocation of one block do (20_memory.md R110, R112). -/

namespace Sys2Proof.Machine

theorem getD_set (xs : List Bool) (h k : Nat) (v : Bool) :
    (xs.set h v).getD k false = if k = h ∧ h < xs.length then v else xs.getD k false := by
  simp only [List.getD_eq_getElem?_getD, List.getElem?_set]
  split
  · rename_i e
    subst e
    by_cases hl : h < xs.length
    · simp [hl]
    · simp [hl]
  · rename_i e
    rw [if_neg (fun c => e c.1.symm)]

/-- A release frees the block it names and no other (R112). -/
theorem release_free_getD (o : Slot) (s : State) (k : Nat) :
    (release o s).free.getD k false = (s.free.getD k false || decide (o = some k ∧ k < s.free.length)) := by
  cases o with
  | none => simp
  | some h =>
    rw [release_some_free, getD_set]
    by_cases hk : k = h
    · subst hk
      by_cases hl : k < s.free.length <;> simp [hl]
    · have : ¬ h = k := fun e => hk e.symm
      simp [hk, this]

@[simp] theorem release_free_length (o : Slot) (s : State) : (release o s).free.length = s.free.length := by
  cases o <;> simp

/-- Releases change the free bits alone. -/
theorem releaseAll_frame (os : List Slot) (s : State) :
    releaseAll os s = { s with free := (releaseAll os s).free } := by
  induction os generalizing s with
  | nil => rfl
  | cons o os ih =>
    have h := ih (release o s)
    simp only [releaseAll, List.foldl_cons] at h ⊢
    rw [h]
    cases o <;> rfl

@[simp] theorem releaseAll_free_length (os : List Slot) (s : State) :
    (releaseAll os s).free.length = s.free.length := by
  induction os generalizing s with
  | nil => rfl
  | cons o os ih => simpa [releaseAll] using ih (release o s)

/-- Releases free the blocks they name and no other (R112). -/
theorem releaseAll_free_getD (os : List Slot) (s : State) (k : Nat) :
    (releaseAll os s).free.getD k false = (s.free.getD k false || decide (some k ∈ os ∧ k < s.free.length)) := by
  induction os generalizing s with
  | nil => simp [releaseAll]
  | cons o os ih =>
    have h := ih (release o s)
    simp only [releaseAll, List.foldl_cons] at h ⊢
    rw [h, release_free_getD, release_free_length]
    by_cases hk : k < s.free.length <;> by_cases ho : o = some k <;> simp [hk, ho, eq_comm]

theorem mem_freeHandles (s : State) (h : Handle) :
    h ∈ freeHandles s ↔ h < s.free.length ∧ s.free.getD h false = true := by
  simp [freeHandles]

/-- A successful allocation returns a block that was free, takes it and nothing else, whatever ALLOC_CHOICE is
(R11, R110). -/
theorem allocBlock_spec (s s' : State) (h : Handle) (e : allocBlock s = some (h, s')) :
    h < s.free.length ∧ s.free.getD h false = true ∧
      s' = { s with free := s.free.set h false, draws := s'.draws } := by
  rw [← and_assoc, ← mem_freeHandles]
  unfold allocBlock at e
  split at e
  · cases e
  · rename_i h0 hs hf
    split at e
    · cases e
      exact ⟨by simp [hf], rfl⟩
    · simp only [Option.some.injEq, Prod.mk.injEq] at e
      obtain ⟨rfl, rfl⟩ := e
      refine ⟨?_, rfl⟩
      rw [hf, List.getD_eq_getElem _ _ (by rw [List.length_cons]; exact Nat.mod_lt _ (by omega))]
      exact List.getElem_mem _

/-- Allocations change the free bits and the count of free values taken, nothing else. -/
theorem allocEach_frame (n : Nat) (s : State) :
    (allocEach n s).2 = { s with free := (allocEach n s).2.free, draws := (allocEach n s).2.draws } := by
  induction n generalizing s with
  | zero => rfl
  | succ n ih =>
    unfold allocEach
    split
    · rfl
    · rename_i h s' e
      have hs := (allocBlock_spec s s' h e).2.2
      simp only
      rw [ih s', hs]

end Sys2Proof.Machine
end

