-- ==== Sys2Proof/Laws/Frames.lean ====
section
/-! SUPPORT. What each stage of the tick leaves unchanged: the state after it, with only the fields it can write taken
from its result. -/

namespace Sys2Proof.Machine

-- Queues

theorem queuePush_frame (q : Nat) (h : Handle) (s : State) :
    queuePush q h s =
      { s with free := (queuePush q h s).free, queues := (queuePush q h s).queues, err := (queuePush q h s).err } := by
  unfold queuePush
  split <;> rfl

theorem pushPhase_frame (s : State) :
    pushPhase s =
      { s with free := (pushPhase s).free, queues := (pushPhase s).queues, err := (pushPhase s).err,
               flow := (pushPhase s).flow } := by
  unfold pushPhase
  split
  · rfl
  · split
    · rfl
    · rw [queuePush_frame]

theorem pushAll_frame (n : Nat) (s : State) :
    pushAll n s =
      { s with free := (pushAll n s).free, queues := (pushAll n s).queues, err := (pushAll n s).err,
               flow := (pushAll n s).flow } := by
  induction n generalizing s with
  | zero => rfl
  | succ n ih =>
    unfold pushAll
    rw [ih (pushPhase s), pushPhase_frame s]

-- Acquisition

theorem demuxChannel_frame (s : State) (c : Nat) : demuxChannel s c = { s with mem := (demuxChannel s c).mem } := by
  unfold demuxChannel
  split
  · rfl
  · rename_i h hh
    clear hh
    generalize List.range s.build.L = is
    induction is generalizing s with
    | nil => rfl
    | cons i is ih =>
      have hd : demuxSample c h s i = { s with mem := (demuxSample c h s i).mem } := rfl
      rw [List.foldl_cons, ih (demuxSample c h s i), hd]

theorem demux_frame (cs : List Nat) (s : State) :
    cs.foldl demuxChannel s = { s with mem := (cs.foldl demuxChannel s).mem } := by
  induction cs generalizing s with
  | nil => rfl
  | cons c cs ih => rw [List.foldl_cons, ih (demuxChannel s c), demuxChannel_frame s c]

theorem isrPhase_frame (s : State) :
    isrPhase s = { s with mem := (isrPhase s).mem, acqOff := (isrPhase s).acqOff } := by
  unfold isrPhase
  split
  · rw [demux_frame]
  · rfl

theorem renewCurrent_frame (s : State) :
    renewCurrent s =
      { s with free := (renewCurrent s).free, draws := (renewCurrent s).draws, acqCur := (renewCurrent s).acqCur,
               acqOff := (renewCurrent s).acqOff, cnt := (renewCurrent s).cnt, err := (renewCurrent s).err } := by
  unfold renewCurrent allocN
  by_cases hn : poolFree s < s.build.N
  · rw [if_pos hn]
    rfl
  · rw [if_neg hn]
    simp only
    rw [allocEach_frame]

theorem acqPhase_frame (s : State) :
    acqPhase s =
      { s with free := (acqPhase s).free, draws := (acqPhase s).draws, acqCur := (acqPhase s).acqCur,
               acqOff := (acqPhase s).acqOff, cnt := (acqPhase s).cnt, err := (acqPhase s).err,
               live := (acqPhase s).live, flow := (acqPhase s).flow } := by
  unfold acqPhase
  split
  · rw [renewCurrent_frame]
  · split
    · rw [renewCurrent_frame]
    · rfl

-- Delay line

theorem dlPhase_frame (s : State) :
    dlPhase s =
      { s with free := (dlPhase s).free, dlHead := (dlPhase s).dlHead, dlSlot := (dlPhase s).dlSlot,
               flow := (dlPhase s).flow } := by
  unfold dlPhase
  split
  · rfl
  · simp only
    rw [releaseAll_frame]

-- Detector

theorem discardFlow_frame (s : State) :
    discardFlow s = { s with free := (discardFlow s).free, flow := (discardFlow s).flow } := by
  unfold discardFlow
  rw [releaseAll_frame]

theorem detRegisters_frame (k : DetStep) (s : State) :
    detRegisters k s =
      { s with det := (detRegisters k s).det, chans := (detRegisters k s).chans, err := (detRegisters k s).err } := by
  unfold detRegisters raiseMustclose
  split <;> rfl

theorem detUpdate_frame (s : State) :
    detUpdate s =
      { s with det := (detUpdate s).det, chans := (detUpdate s).chans, err := (detUpdate s).err,
               free := (detUpdate s).free, flow := (detUpdate s).flow } := by
  unfold detUpdate
  simp only
  split
  · rw [detRegisters_frame]
  · rw [discardFlow_frame, detRegisters_frame]

-- Multiplexer

theorem muxAccept_frame (s : State) (c : Nat) :
    muxAccept s c =
      { s with free := (muxAccept s c).free, muxIn := (muxAccept s c).muxIn, cnt := (muxAccept s c).cnt,
               err := (muxAccept s c).err } := by
  unfold muxAccept
  split
  · rfl
  · split <;> rfl

theorem muxAcceptAll_frame (s : State) :
    muxAcceptAll s =
      { s with free := (muxAcceptAll s).free, muxIn := (muxAcceptAll s).muxIn, cnt := (muxAcceptAll s).cnt,
               err := (muxAcceptAll s).err, flow := noBlocks s.build.N } := by
  have hf (cs : List Nat) (s : State) :
      cs.foldl muxAccept s =
        { s with free := (cs.foldl muxAccept s).free, muxIn := (cs.foldl muxAccept s).muxIn,
                 cnt := (cs.foldl muxAccept s).cnt, err := (cs.foldl muxAccept s).err } := by
    induction cs generalizing s with
    | nil => rfl
    | cons c cs ih => rw [List.foldl_cons, ih (muxAccept s c), muxAccept_frame s c]
  unfold muxAcceptAll
  rw [hf]

theorem muxEmpty_frame (s : State) :
    muxEmpty s = { s with free := (muxEmpty s).free, muxIn := noBlocks s.build.N } := by
  unfold muxEmpty
  rw [releaseAll_frame]

theorem muxWriteBlock_frame (s : State) (bh : Handle × Nat) :
    muxWriteBlock s bh = { s with mem := (muxWriteBlock s bh).mem } := by
  unfold muxWriteBlock
  generalize List.range s.build.L = is
  induction is generalizing s with
  | nil => rfl
  | cons i is ih =>
    have hd : muxWriteSample bh.2 bh.1 s i = { s with mem := (muxWriteSample bh.2 bh.1 s i).mem } := rfl
    rw [List.foldl_cons, ih (muxWriteSample bh.2 bh.1 s i), hd]

theorem muxWrite_frame (bs : List (Handle × Nat)) (s : State) :
    bs.foldl muxWriteBlock s = { s with mem := (bs.foldl muxWriteBlock s).mem } := by
  induction bs generalizing s with
  | nil => rfl
  | cons b bs ih => rw [List.foldl_cons, ih (muxWriteBlock s b), muxWriteBlock_frame s b]

theorem pushEach_frame (hs : List Handle) (s : State) :
    hs.foldl (fun s h => queuePush 0 h s) s =
      { s with free := (hs.foldl (fun s h => queuePush 0 h s) s).free,
               queues := (hs.foldl (fun s h => queuePush 0 h s) s).queues,
               err := (hs.foldl (fun s h => queuePush 0 h s) s).err } := by
  induction hs generalizing s with
  | nil => rfl
  | cons h hs ih => rw [List.foldl_cons, ih (queuePush 0 h s), queuePush_frame 0 h s]

theorem muxEmit_frame (os : List Handle) (s : State) :
    muxEmit os s =
      { s with mem := (muxEmit os s).mem, free := (muxEmit os s).free, queues := (muxEmit os s).queues,
               err := (muxEmit os s).err, muxIn := (muxEmit os s).muxIn } := by
  unfold muxEmit
  rw [muxEmpty_frame, pushEach_frame, muxWrite_frame]

theorem muxFrame_frame (s : State) :
    muxFrame s =
      { s with mem := (muxFrame s).mem, free := (muxFrame s).free, draws := (muxFrame s).draws,
               queues := (muxFrame s).queues, err := (muxFrame s).err, cnt := (muxFrame s).cnt,
               muxIn := (muxFrame s).muxIn } := by
  unfold muxFrame allocN
  split
  · by_cases hn : poolFree s < s.build.N
    · rw [if_pos hn]
      simp only [muxPoolFailed]
      rw [muxEmpty_frame]
      rfl
    · rw [if_neg hn]
      simp only
      rw [muxEmit_frame, allocEach_frame]
  · rfl

theorem muxPhase_frame (s : State) :
    muxPhase s =
      { s with mem := (muxPhase s).mem, free := (muxPhase s).free, draws := (muxPhase s).draws,
               queues := (muxPhase s).queues, err := (muxPhase s).err, cnt := (muxPhase s).cnt,
               muxIn := (muxPhase s).muxIn, flow := (muxPhase s).flow } := by
  unfold muxPhase
  split
  · rw [muxFrame_frame, muxAcceptAll_frame]
  · rfl

/-- What the sink of a tick can write (R205). -/
theorem sinkPhases_frame (s : State) :
    sinkPhases s =
      { s with mem := (sinkPhases s).mem, free := (sinkPhases s).free, draws := (sinkPhases s).draws,
               queues := (sinkPhases s).queues, err := (sinkPhases s).err, cnt := (sinkPhases s).cnt,
               muxIn := (sinkPhases s).muxIn, flow := (sinkPhases s).flow } := by
  unfold sinkPhases
  split
  · rw [muxPhase_frame]
  · rw [pushAll_frame]

end Sys2Proof.Machine
end

