-- ==== Sys2Proof/Laws/Memory.lean ====
section
/-! SUPPORT. Memory: every write keeps the canonical form; a read after a write gives what was written there and
leaves every other byte alone. -/

namespace Sys2Proof.Machine

/-- Every address of the list lies above `lo`. -/
def Memory.above (lo : Nat) (m : Memory) : Prop := ∀ c ∈ m, lo < c.1

theorem Memory.wf_cons (a : Nat) (v : Byte) (m : Memory) :
    Memory.wf ((a, v) :: m) = true ↔ Memory.above a m ∧ Memory.wf m = true := by
  induction m generalizing a v with
  | nil => simp [Memory.wf, Memory.above]
  | cons c t ih =>
    obtain ⟨b, w⟩ := c
    simp only [Memory.wf, Bool.and_eq_true, decide_eq_true_eq, ih, Memory.above, List.mem_cons, forall_eq_or_imp]
    constructor
    · rintro ⟨hab, hb, ht⟩
      exact ⟨⟨hab, fun c hc => hab.trans (hb c hc)⟩, hb, ht⟩
    · rintro ⟨⟨hab, _⟩, hb, ht⟩
      exact ⟨hab, hb, ht⟩

theorem memWrite_above (m : Memory) (lo a : Nat) (v : Byte) (hm : Memory.above lo m) (ha : lo < a) :
    Memory.above lo (memWrite m a v) := by
  induction m with
  | nil => simp [memWrite, Memory.above, ha]
  | cons c t ih =>
    obtain ⟨k, w⟩ := c
    simp only [Memory.above, List.mem_cons, forall_eq_or_imp] at hm ih
    simp only [memWrite]
    split
    · simp only [Memory.above, List.mem_cons, forall_eq_or_imp]
      exact ⟨ha, hm⟩
    · split
      · simp only [Memory.above, List.mem_cons, forall_eq_or_imp]
        exact ⟨ha, hm.2⟩
      · simp only [Memory.above, List.mem_cons, forall_eq_or_imp]
        exact ⟨hm.1, ih hm.2⟩

/-- A write keeps the canonical form. -/
theorem memWrite_wf (m : Memory) (a : Nat) (v : Byte) (hm : Memory.wf m = true) :
    Memory.wf (memWrite m a v) = true := by
  induction m with
  | nil => rfl
  | cons c t ih =>
    obtain ⟨k, w⟩ := c
    have h := (Memory.wf_cons k w t).1 hm
    simp only [memWrite]
    split
    · rename_i hak
      refine (Memory.wf_cons _ _ _).2 ⟨?_, hm⟩
      intro c hc
      rcases List.mem_cons.1 hc with rfl | hc
      · exact hak
      · exact hak.trans (h.1 c hc)
    · split
      · rename_i hak
        subst hak
        exact (Memory.wf_cons _ _ _).2 h
      · exact (Memory.wf_cons _ _ _).2 ⟨memWrite_above t k a v h.1 (by omega), ih h.2⟩

/-- A byte read where it was written. -/
theorem memFind_memWrite_same (m : Memory) (a : Nat) (v : Byte) : memFind (memWrite m a v) a = some v := by
  induction m with
  | nil => simp [memWrite, memFind]
  | cons c t ih =>
    obtain ⟨k, w⟩ := c
    simp only [memWrite]
    split
    · simp [memFind]
    · split
      · simp [memFind]
      · rename_i hka
        simp only [memFind, ih]
        rw [if_neg (fun h => hka h.symm)]

/-- A byte read elsewhere. -/
theorem memFind_memWrite_other (m : Memory) (a b : Nat) (v : Byte) (h : b ≠ a) :
    memFind (memWrite m a v) b = memFind m b := by
  induction m with
  | nil => simp [memWrite, memFind, Ne.symm h]
  | cons c t ih =>
    obtain ⟨k, w⟩ := c
    simp only [memWrite]
    split
    · simp [memFind, Ne.symm h]
    · split
      · rename_i hka
        subst hka
        simp [memFind, Ne.symm h]
      · simp [memFind, ih]

theorem readByte_writeByte (a b : Nat) (v : Byte) (s : State) :
    readByte (writeByte a v s) b = if b = a then v else readByte s b := by
  unfold readByte writeByte
  split
  · rename_i h
    subst h
    simp [memFind_memWrite_same]
  · rename_i h
    simp [memFind_memWrite_other _ _ _ _ h]

/-- Little-endian: the byte at an offset after a 2-byte write (R101). -/
theorem readByte_writeHalf (a b : Nat) (v : Sample) (s : State) :
    readByte (writeHalf a v s) b =
      if b = a + 1 then v.extractLsb' 8 8 else if b = a then v.extractLsb' 0 8 else readByte s b := by
  simp only [writeHalf, readByte_writeByte]

theorem readHalf_writeHalf_same (a : Nat) (v : Sample) (s : State) : readHalf (writeHalf a v s) a = v := by
  have h : ¬ a = a + 1 := by omega
  simp only [readHalf, readByte_writeHalf, h, ↓reduceIte]
  apply BitVec.eq_of_getLsbD_eq
  intro i hi
  simp only [BitVec.getLsbD_append, BitVec.getLsbD_extractLsb']
  by_cases h : i < 8
  · simp [h]
  · simp only [h, ↓reduceIte]
    rw [show 8 + (i - 8) = i by omega]
    simp; omega

theorem readHalf_writeHalf_other (a b : Nat) (v : Sample) (s : State) (h1 : b ≠ a) (h2 : b ≠ a + 1) (h3 : b + 1 ≠ a) :
    readHalf (writeHalf a v s) b = readHalf s b := by
  have h4 : b + 1 ≠ a + 1 := by omega
  simp only [readHalf, readByte_writeHalf, if_neg h1, if_neg h2, if_neg h3, if_neg h4]

theorem writeHalf_wf (a : Nat) (v : Sample) (s : State) (h : Memory.wf s.mem = true) :
    Memory.wf (writeHalf a v s).mem = true :=
  memWrite_wf _ _ _ (memWrite_wf _ _ _ h)

theorem writeSample_wf (h i : Nat) (v : Sample) (s : State) (hm : Memory.wf s.mem = true) :
    Memory.wf (writeSample h i v s).mem = true :=
  writeHalf_wf _ _ _ hm

theorem writeRaw_wf (j : Nat) (w : Word) (s : State) (hm : Memory.wf s.mem = true) :
    Memory.wf (writeRaw j w s).mem = true :=
  writeHalf_wf _ _ _ (writeHalf_wf _ _ _ hm)

/-- A raw word read where a beat stored it (R200, R420). -/
theorem rawWord_writeRaw_same (j : Nat) (w : Word) (s : State) : rawWord (writeRaw j w s) j = w := by
  simp only [rawWord, writeRaw, readFull, writeFull]
  rw [readHalf_writeHalf_same, readHalf_writeHalf_other _ _ _ _ (by omega) (by omega) (by omega),
    readHalf_writeHalf_same]
  apply BitVec.eq_of_getLsbD_eq
  intro i hi
  simp only [BitVec.getLsbD_append, BitVec.getLsbD_extractLsb']
  by_cases h : i < 16
  · simp [h]
  · simp only [h, ↓reduceIte]
    rw [show 16 + (i - 16) = i by omega]
    simp; omega

/-- Every other raw word after a beat. -/
theorem rawWord_writeRaw_other (j k : Nat) (w : Word) (s : State) (h : k ≠ j) :
    rawWord (writeRaw j w s) k = rawWord s k := by
  simp only [rawWord, writeRaw, readFull, writeFull, rawAddr]
  rw [readHalf_writeHalf_other _ _ _ _ (by omega) (by omega) (by omega),
    readHalf_writeHalf_other _ _ _ _ (by omega) (by omega) (by omega),
    readHalf_writeHalf_other _ _ _ _ (by omega) (by omega) (by omega),
    readHalf_writeHalf_other _ _ _ _ (by omega) (by omega) (by omega)]

/-- A sample read where it was written. -/
theorem plin_writeHalf_same (g : Nat) (v : Sample) (s : State) : plin (writeHalf (plinAddr g) v s) g = v :=
  readHalf_writeHalf_same _ _ _

/-- Every other sample after a write. -/
theorem plin_writeHalf_other (g k : Nat) (v : Sample) (s : State) (h : k ≠ g) :
    plin (writeHalf (plinAddr g) v s) k = plin s k := by
  simp only [plin, plinAddr]
  exact readHalf_writeHalf_other _ _ _ _ (by omega) (by omega) (by omega)

/-- Raw words are not touched by a sample write: the windows do not overlap (R117). -/
theorem rawWord_writeSample (h i j : Nat) (v : Sample) (s : State) (hj : j < 4096) :
    rawWord (writeSample h i v s) j = rawWord s j := by
  simp only [rawWord, readFull, rawAddr, writeSample, plinAddr]
  rw [readHalf_writeHalf_other _ _ _ _ (by omega) (by omega) (by omega),
    readHalf_writeHalf_other _ _ _ _ (by omega) (by omega) (by omega)]

/-- Samples are not touched by a beat: the windows do not overlap (R117). -/
theorem plin_writeRaw (g j : Nat) (w : Word) (s : State) (hj : j < 4096) : plin (writeRaw j w s) g = plin s g := by
  simp only [plin, plinAddr, writeRaw, writeFull, rawAddr]
  rw [readHalf_writeHalf_other _ _ _ _ (by omega) (by omega) (by omega),
    readHalf_writeHalf_other _ _ _ _ (by omega) (by omega) (by omega)]

/-- Memory after reset, and after every power cycle, has the canonical form. -/
theorem resetOf_mem_wf (b : Build) : Memory.wf (State.resetOf b).mem = true := rfl

end Sys2Proof.Machine
end

