-- ==== Sys2Proof/Laws/PerInstr.lean ====
section
/-! SUPPORT. The statement made for each instruction: an instruction that has an encoding is read back from it. -/

namespace Sys2Proof.Laws

/-- Every field of the instruction is in its word, where the decoder reads it. -/
def RoundTrip.Statement (i : Instr) : Prop := i.wellFormed = true → decode (encode i) = .ok i

/-- W, SZ and A of a descriptor (R142). -/
theorem busDesc_fields (wsz : BitVec 3) (a : BitVec 16) :
    (busDesc wsz a).extractLsb' 0 16 = a ∧ (busDesc wsz a).getLsbD 18 = wsz.getLsbD 2 ∧
      (busDesc wsz a).getLsbD 17 = wsz.getLsbD 1 ∧ (busDesc wsz a).getLsbD 16 = wsz.getLsbD 0 := by
  refine ⟨?_, ?_, ?_, ?_⟩
  · apply BitVec.eq_of_getLsbD_eq
    intro i hi
    rw [BitVec.getLsbD_extractLsb', Nat.zero_add]
    change (decide (i < 16) && (wsz ++ a : BitVec (3 + 16)).getLsbD i) = a.getLsbD i
    rw [BitVec.getLsbD_append]
    simp [hi]
  all_goals exact (BitVec.getLsbD_append (x := wsz) (y := a)).trans (by simp)

/-- A queue command with any of the sixteen queue indices. -/
theorem queue_round_trip (f : Nat → Instr) (hf : ∀ q < 16, decode (encode (f q)) = .ok (f q)) (q : Nat)
    (h : fitsQ q = true) : decode (encode (f q)) = .ok (f q) :=
  hf q (by simpa [fitsQ] using h)

theorem RoundTrip.nop : RoundTrip.Statement .nop := fun _ => by decide
theorem RoundTrip.start : RoundTrip.Statement .start := fun _ => by decide
theorem RoundTrip.stop : RoundTrip.Statement .stop := fun _ => by decide
theorem RoundTrip.detrst : RoundTrip.Statement .detrst := fun _ => by decide
theorem RoundTrip.qavail (q : Nat) : RoundTrip.Statement (.qavail q) := queue_round_trip .qavail (by decide) q
theorem RoundTrip.qread (q : Nat) : RoundTrip.Statement (.qread q) := queue_round_trip .qread (by decide) q
theorem RoundTrip.qfree (q : Nat) : RoundTrip.Statement (.qfree q) := queue_round_trip .qfree (by decide) q
theorem RoundTrip.qclear (q : Nat) : RoundTrip.Statement (.qclear q) := queue_round_trip .qclear (by decide) q

theorem RoundTrip.rd32 (a : BitVec 16) : RoundTrip.Statement (.rd32 a) := fun _ => by
  obtain ⟨h1, h2, h3, h4⟩ := busDesc_fields 0b010 a
  simp only [encode, decode, decodeBus, h1, h2, h3, h4]
  rfl

theorem RoundTrip.rd16 (a : BitVec 16) : RoundTrip.Statement (.rd16 a) := fun _ => by
  obtain ⟨h1, h2, h3, h4⟩ := busDesc_fields 0b001 a
  simp only [encode, decode, decodeBus, h1, h2, h3, h4]
  rfl

theorem RoundTrip.rd8 (a : BitVec 16) : RoundTrip.Statement (.rd8 a) := fun _ => by
  obtain ⟨h1, h2, h3, h4⟩ := busDesc_fields 0b000 a
  simp only [encode, decode, decodeBus, h1, h2, h3, h4]
  rfl

theorem RoundTrip.wr32 (a : BitVec 16) (d : Word) : RoundTrip.Statement (.wr32 a d) := fun _ => by
  obtain ⟨h1, h2, h3, h4⟩ := busDesc_fields 0b110 a
  simp only [encode, decode, decodeBus, h1, h2, h3, h4]
  rfl

theorem RoundTrip.wr16 (a : BitVec 16) (d : Word) : RoundTrip.Statement (.wr16 a d) := fun _ => by
  obtain ⟨h1, h2, h3, h4⟩ := busDesc_fields 0b101 a
  simp only [encode, decode, decodeBus, h1, h2, h3, h4]
  rfl

theorem RoundTrip.wr8 (a : BitVec 16) (d : Word) : RoundTrip.Statement (.wr8 a d) := fun _ => by
  obtain ⟨h1, h2, h3, h4⟩ := busDesc_fields 0b100 a
  simp only [encode, decode, decodeBus, h1, h2, h3, h4]
  rfl

theorem RoundTrip.dmaWr (d : Word) : RoundTrip.Statement (.dmaWr d) := fun _ => by
  have h1 : (1#1 ++ d : BitVec (1 + 32)).getLsbD 32 = true := by rw [BitVec.getLsbD_append]; rfl
  have h2 : (1#1 ++ d : BitVec (1 + 32)).extractLsb' 0 32 = d := by
    apply BitVec.eq_of_getLsbD_eq
    intro i hi
    rw [BitVec.getLsbD_extractLsb', Nat.zero_add, BitVec.getLsbD_append]
    simp [hi]
  simp only [encode, decode, decodeDma]
  rw [if_pos h1, h2]

theorem RoundTrip.evHalf : RoundTrip.Statement .evHalf := fun _ => by decide
theorem RoundTrip.evFull : RoundTrip.Statement .evFull := fun _ => by decide
theorem RoundTrip.isr : RoundTrip.Statement .isr := fun _ => by decide
theorem RoundTrip.acq : RoundTrip.Statement .acq := fun _ => by decide
theorem RoundTrip.dl : RoundTrip.Statement .dl := fun _ => by decide
theorem RoundTrip.det : RoundTrip.Statement .det := fun _ => by decide
theorem RoundTrip.mux : RoundTrip.Statement .mux := fun _ => by decide
theorem RoundTrip.qpush : RoundTrip.Statement .qpush := fun _ => by decide

end Sys2Proof.Laws
end

