-- ==== Sys2Proof/Tests/Slice0.lean ====
section
/-! SUPPORT. Tests: words written out from the encodings of 30_encoding.md, single steps whose expected results are the
vectors of 95_test_vectors.md (named beside each), and a witness for the hypotheses of each statement. -/

namespace Sys2Proof.Tests

open Sys2Proof Sys2Proof.Machine

-- Helpers

/-- A view of the next state, if there is one. -/
def after {α : Type} (o : Host.Outcome State Fault Refusal) (f : State → α) : Option α :=
  match o with
  | .next s => some (f s)
  | .fault _ => none
  | .refused _ => none

/-- The refusal, if the outcome is one. -/
def refusal (o : Host.Outcome State Fault Refusal) : Option Refusal :=
  match o with
  | .next _ => none
  | .fault _ => none
  | .refused r => some r

/-- Instance P right after reset. -/
def p0 : State := State.reset

/-- A MUXED = 1 variant of instance P right after reset. -/
def m0 : State := State.resetOf { Build.instanceP with MUXED := true }

/-- The free bits of a pool of 16 in which the lowest n blocks are held. -/
def held (n : Nat) : List Bool := List.replicate n false ++ List.replicate (16 - n) true

/-- Block h filled with samples. -/
def withBlock (h : Nat) (xs : List Sample) (s : State) : State :=
  xs.zipIdx.foldl (fun s x => writeSample h x.2 x.1 s) s

/-- RAW filled from word j on. -/
def withRaw (j : Nat) (ws : List Word) (s : State) : State :=
  ws.zipIdx.foldl (fun s x => writeRaw (j + x.2) x.1 s) s

/-- Four samples of a block. -/
def samples (h : Nat) (s : State) : List Sample := (List.range 4).map (poolSample s h)

/-- A queue of instance P. -/
def ring (slots : List Slot) (head tail : Nat) (borrow : Bool) : Queue :=
  { slots := slots, head := head, tail := tail, borrow := borrow, drop := 1 }

/-- Instance P with queue 0 as given and the blocks of both queues allocated. -/
def q0 (u : Queue) : State := { p0 with queues := [u, Queue.empty p0.build], free := held 3 }

-- Well-formedness: one ill-formed term for each check

theorem test_wf_qavail : (Instr.qavail 16).wellFormed = false ∧ (Instr.qavail 15).wellFormed = true := by decide
theorem test_wf_qread : (Instr.qread 16).wellFormed = false ∧ (Instr.qread 15).wellFormed = true := by decide
theorem test_wf_qfree : (Instr.qfree 16).wellFormed = false ∧ (Instr.qfree 15).wellFormed = true := by decide
theorem test_wf_qclear : (Instr.qclear 16).wellFormed = false ∧ (Instr.qclear 15).wellFormed = true := by decide

-- Words, field by field: CMD = OP Z1 Q Z0 (R141, R147)

theorem test_word_nop : decode (.cmd 0b00000000_0000_0000_0000000000000000) = .ok .nop := by decide
theorem test_word_start : decode (.cmd 0b00000001_0000_0000_0000000000000000) = .ok .start := by decide
theorem test_word_stop : decode (.cmd 0b00000010_0000_0000_0000000000000000) = .ok .stop := by decide
theorem test_word_detrst : decode (.cmd 0b00000011_0000_0000_0000000000000000) = .ok .detrst := by decide
theorem test_word_qavail : decode (.cmd 0b00010000_0000_0110_0000000000000000) = .ok (.qavail 6) := by decide
theorem test_word_qread : decode (.cmd 0b00010001_0000_0010_0000000000000000) = .ok (.qread 2) := by decide
theorem test_word_qfree : decode (.cmd 0b00010010_0000_1000_0000000000000000) = .ok (.qfree 8) := by decide
theorem test_word_qclear : decode (.cmd 0b00010011_0000_1111_0000000000000000) = .ok (.qclear 15) := by decide

/-- CMD-7 to CMD-10. -/
theorem test_word_reserved_cmd :
    [0x00010000, 0x04000000, 0x10100000, (0x12000001 : Word)].map (fun w => (decodeCmd w, isReservedCmd w)) =
      [(none, true), (none, true), (none, true), (none, true)] ∧
    decode (.cmd 0x04000000) = .error .reservedCmd := by decide

-- BUS = W SZ A (R142, R148)

theorem test_word_rd32 : decode (.bus 0b0_10_0000000000011000 0) = .ok (.rd32 0x018) := by decide
theorem test_word_rd16 : decode (.bus 0b0_01_1000000000100110 0) = .ok (.rd16 0x8026) := by decide
theorem test_word_rd8 : decode (.bus 0b0_00_0000000000000001 0) = .ok (.rd8 1) := by decide
theorem test_word_wr32 : decode (.bus 0b1_10_0000000000010100 0x01000000) = .ok (.wr32 0x014 0x01000000) := by decide
theorem test_word_wr16 : decode (.bus 0b1_01_0000000000100000 1) = .ok (.wr16 0x020 1) := by decide
theorem test_word_wr8 : decode (.bus 0b1_00_0100000000000000 7) = .ok (.wr8 0x4000 7) := by decide
theorem test_word_reserved_bus : decode (.bus 0b0_11_0000000000000000 0) = .error (.reservedBus false) ∧
    decode (.bus 0b1_11_0000000000000000 0) = .error (.reservedBus true) := by decide

-- DMA = V DATA (R143), EVT = FULL HALF (R144), PHASE (R145)

theorem test_word_dmaWr : decode (.dma 0b1_00000000000000000000000000010010) = .ok (.dmaWr 0x12) := by decide
theorem test_word_no_beat : decode (.dma 0b0_00000000000000000000000000010010) = .error .noBeat := by decide
theorem test_word_evHalf : decode (.evt 0b01) = .ok .evHalf := by decide
theorem test_word_evFull : decode (.evt 0b10) = .ok .evFull := by decide
theorem test_word_other_events : decode (.evt 0b00) = .error .noEvent ∧ decode (.evt 0b11) = .error .reservedEvt := by
  decide
theorem test_word_isr : decode (.phase 0b000) = .ok .isr := by decide
theorem test_word_acq : decode (.phase 0b001) = .ok .acq := by decide
theorem test_word_dl : decode (.phase 0b010) = .ok .dl := by decide
theorem test_word_det : decode (.phase 0b011) = .ok .det := by decide
theorem test_word_mux : decode (.phase 0b100) = .ok .mux := by decide
theorem test_word_qpush : decode (.phase 0b101) = .ok .qpush := by decide
theorem test_word_reserved_phase : decode (.phase 0b110) = .error .reservedPhase ∧
    decode (.phase 0b111) = .error .reservedPhase := by decide

-- The table's numbering of bits

theorem test_table_words :
    decodeTableWord 32 0x13030000 = some (.qclear 3) ∧ decodeTableWord 19 0x20018 = some (.rd32 0x018) ∧
    decodeTableWord 24 0x60014 = some (.wr32 0x014 0) ∧ decodeTableWord 56 (0x60020 + 5 * 2 ^ 19) = some (.wr32 0x020 5) ∧
    decodeTableWord 33 0x100000012 = some (.dmaWr 0x12) ∧ decodeTableWord 40 0x012 = none ∧
    decodeTableWord 2 0b01 = some .evHalf ∧ decodeTableWord 8 0b10 = some .evFull ∧
    decodeTableWord 3 0b001 = some .acq ∧ decodeTableWord 8 0b101 = some .qpush := by decide

theorem test_fetch_runs_the_word :
    after (step (p0.withFetchWord 32 0x01000000)) (fun s => (s.run, s.result, s.inputs)) = some (true, 1, []) ∧
    after (step (p0.withFetchWord 40 0x100000012)) (fun s => (rawWord s 0, s.dmaPos)) = some (0x12, 1) ∧
    after (step (p0.withFetchWord 8 0b10)) (fun s => (s.evPend, s.evKind)) = some (false, .full) := by decide

-- Session commands

/-- CMD-6. -/
theorem test_nop : after (exec .nop { p0 with result := 5 }) (fun s => s.result) = some 5 := by decide

/-- CMD-1 and CMD-2. -/
theorem test_start : after (exec .start p0) (fun s => (s.run, s.result, statusWord s)) = some (true, 1, 1) ∧
    after (exec .start { p0 with run := true }) (fun s => (s.run, s.result)) = some (true, 0) := by decide

/-- CMD-11: E = 0, F = 1 and G = 2 return to the pool. -/
theorem test_start_empties : after
    (exec .start { p0 with free := held 3, dlHead := 2, muxIn := [some 2, none],
                           dlSlot := [[none, some 0, none, none], [none, none, none, some 1]] })
    (fun s => (poolFree s, s.dlHead, s.muxIn, s.dlSlot.flatten.all Option.isNone)) =
    some (16, 0, [none, none], true) := by decide

/-- CMD-3 and CMD-4. -/
theorem test_stop : after (exec .stop { p0 with run := true }) (fun s => (s.run, s.result)) = some (false, 1) ∧
    after (exec .stop p0) (fun s => (s.run, s.result)) = some (false, 0) := by decide

/-- CMD-5. -/
theorem test_detrst : after
    (exec .detrst { p0 with cfg := { p0.cfg with inhib := 2 }, det := { p0.det with sigcount := 3, wdog := 4 },
                            chans := [{ Chan.zero with nest := 7 }, { Chan.zero with nest := 9 }] })
    (fun s => (s.det.sigcount.toInt, s.det.wdog, s.chans, s.result)) =
    some (-2, 0, [Chan.zero, Chan.zero], 1) := by decide

-- Queue commands

/-- Q-14, Q-17. -/
theorem test_qavail : after (exec (.qavail 0) (q0 (ring [none, none, some 0] 0 2 false))) (fun s => s.result) = some 1 ∧
    after (exec (.qavail 1) m0) (fun s => (s.err.cmderr, s.result)) = some (true, 0) := by decide

/-- Q-5, Q-6. -/
theorem test_qread :
    after (exec (.qread 0) (q0 (ring [some 0, some 1, none] 2 0 false))) (fun s => (s.result, (queueAt s 0).borrow)) =
      some (0, true) ∧
    after (exec (.qread 0) (q0 (ring [some 0, some 1, none] 2 0 true))) (fun s => s.result) = some 0xFFFFFFFF := by decide

/-- Q-13, Q-16. -/
theorem test_qread_nothing : after (exec (.qread 0) p0) (fun s => s.result) = some 0xFFFFFFFF ∧
    after (exec (.qread 2) { p0 with result := 5 }) (fun s => (s.result, s.err.cmderr)) = some (5, true) := by decide

/-- Q-7, Q-12. -/
theorem test_qfree :
    after (exec (.qfree 0) (q0 (ring [some 0, some 1, none] 2 0 true)))
      (fun s => (s.result, qptrWord (queueAt s 0), queueCount s.build (queueAt s 0), poolFree s)) =
      some (1, 0x00102, 1, 14) ∧
    after (exec (.qfree 0) p0) (fun s => s.result) = some 0 := by decide

/-- Q-15. -/
theorem test_qclear : after (exec (.qclear 0) (q0 (ring [some 2, none, some 1] 1 2 true)))
    (fun s => (s.result, (queueAt s 0), s.free)) =
    some (2, ring [none, none, none] 0 0 false, [false, true, true] ++ List.replicate 13 true) := by decide

-- Bus accesses

/-- BUS-1 to BUS-6, BUS-14. -/
theorem test_rd32 :
    [0x000, 0x004, 0x008, 0x020, 0x058, (0x014 : BitVec 16)].map
      (fun a => after (exec (.rd32 a) p0) (fun s => (s.rdata, s.err.buserr))) =
    [some (0x4D535201, false), some (0x00020004, false), some (0x02040010, false), some (0xFFFFFFFF, false),
     some (16, false), some (0, false)] ∧
    after (exec (.rd32 0x403C) (withRaw 15 [0x12345678] p0)) (fun s => s.rdata) = some 0x12345678 := by decide

/-- BUS-9, BUS-10, BUS-12, BUS-13, BUS-15, BUS-17, BUS-19. -/
theorem test_rd32_refused :
    [0x002, 0x068, 0x120, 0x20C, 0x4040, 0x8080, (0x8002 : BitVec 16)].map
      (fun a => after (exec (.rd32 a) { p0 with rdata := 9 }) (fun s => (s.rdata, s.err.buserr))) =
    List.replicate 7 (some (0, true)) := by decide

/-- BUS-33, BUS-34: blocks 0 and 1 lent. -/
def lending : State := withBlock 0 [1, 2, -1, -1] (withBlock 1 [16, 0, 0, -1]
  { p0 with queues := [ring [some 0, none, none] 1 0 true, ring [some 1, none, none] 1 0 true], free := held 2 })

theorem test_rd16 : after (exec (.rd16 0x800E) lending) (fun s => s.rdata) = some 0x0000FFFF ∧
    after (exec (.rd16 0x8002) lending) (fun s => s.rdata) = some 2 ∧
    after (exec (.rd32 0x8000) lending) (fun s => s.rdata) = some 0x00020001 := by decide

/-- BUS-8, BUS-20. -/
theorem test_rd16_refused :
    [0x000, (0x8001 : BitVec 16)].map
      (fun a => after (exec (.rd16 a) { p0 with rdata := 9 }) (fun s => (s.rdata, s.err.buserr))) =
    List.replicate 2 (some (0, true)) := by decide

/-- BUS-7. -/
theorem test_rd8 : after (exec (.rd8 0) { p0 with rdata := 9 }) (fun s => (s.rdata, s.err.buserr)) = some (0, true) := by
  decide

/-- BUS-25 to BUS-30. -/
theorem test_wr32_config :
    after (exec (.wr32 0x020 5) { p0 with run := true }) (fun s => (s.cfg.thresh, s.err.cfgerr, s.err.buserr)) =
      some (0xFFFFFFFF, true, false) ∧
    [(0x024, 0), (0x02C, 0xFFFFFFFF), (0x01C, 32), ((0x00C, 1) : BitVec 16 × Word)].map
      (fun x => after (exec (.wr32 x.1 x.2) p0) (fun s => (decide (s.cfg = p0.cfg), s.err.cfgerr))) =
      List.replicate 4 (some (true, true)) ∧
    after (exec (.wr32 0x038 0xFFFFFFFF) p0) (fun s => (s.cfg.delay.toInt, s.err.cfgerr)) = some (-1, false) := by decide

/-- BUS-31, BUS-32, BUS-22. -/
theorem test_wr32_other :
    after (exec (.wr32 0x010 0x3FE) { p0 with run := true, evPend := true, err := { Errors.none with qfull := true } })
      statusWord = some 0x401 ∧
    after (exec (.wr32 0x010 1) { p0 with run := true }) statusWord = some 1 ∧
    after (exec (.wr32 0x000 1) p0) statusWord = some 0x80 := by decide

/-- BUS-23. -/
theorem test_wr16 : after (exec (.wr16 0x020 1) p0) (fun s => (s.cfg.thresh, statusWord s)) = some (0xFFFFFFFF, 0x80) := by
  decide

/-- R424. -/
theorem test_wr8 : after (exec (.wr8 0x020 1) p0) (fun s => (s.cfg.thresh, statusWord s)) = some (0xFFFFFFFF, 0x80) := by
  decide

-- DMA and service

/-- DMA-2, DMA-3. -/
theorem test_dmaWr :
    after (exec (.dmaWr 0x12) { p0 with dmaPos := 7 }) (fun s => (rawWord s 7, s.dmaPos, s.evPend, s.evKind)) =
      some (0x12, 8, true, .half) ∧
    after (exec (.dmaWr 5) { p0 with dmaPos := 15 }) (fun s => (rawWord s 15, s.dmaPos, s.evPend, s.evKind)) =
      some (5, 0, true, .full) := by decide

/-- DMA-7: L = N = 1. -/
theorem test_dmaWr_coalesces : after
    (exec (.dmaWr 6) { State.resetOf { Build.instanceP with L := 1, N := 1, NBLK := 4 } with dmaPos := 1, evPend := true })
    (fun s => (s.dmaPos, s.evPend, s.evKind, s.err.dmaovr)) = some (0, true, .half, true) := by decide

/-- DMA-5, DMA-8. -/
theorem test_evHalf :
    after (exec .evHalf { p0 with run := true, evPend := true, err := { Errors.none with dmaovr := true } })
      (fun s => (s.acqCur, statusWord s, s.evPend)) = some ([some 0, some 1], 0xA01, false) ∧
    after (exec .evHalf { p0 with evPend := true }) (fun s => decide (s = p0)) = some true := by decide

/-- ACQ-6, tick 2, of a pool of 4: the filled blocks reach their queues. -/
theorem test_evFull : after
    (exec .evFull (withRaw 8 [0, 0, 0, 0, 0, 0, 0, 0]
      { State.resetOf { Build.instanceP with NBLK := 4 } with
        run := true, evPend := true, evKind := .full, acqCur := [some 0, some 1], free := [false, false, true, true] }))
    (fun s => (s.acqCur, s.queues.map queueOldest, poolFree s, statusWord s)) =
    some ([some 2, some 3], [some 0, some 1], 0, 0x801) := by decide

-- Phases

/-- ISR-1, ISR-3. -/
theorem test_isr :
    after (exec .isr (withRaw 8 [0x100, 0x1000, 0x200, 0x80000000, 0xFFFFFF00, 0, 0x7FFFFF00, 0xFFFFFFFF]
        { p0 with acqCur := [some 0, some 1], free := held 2, cfg := { p0.cfg with shift := 8 } }))
      (fun s => (samples 0 s, samples 1 s, s.acqOff)) = some ([1, 2, -1, -1], [16, 0, 0, -1], 4) ∧
    after (exec .isr p0) (fun s => decide (s = p0)) = some true := by decide

/-- Section 2.2: rows of the conversion table. -/
theorem test_conv : convSample 4 0x12345678 = 0x4567 ∧ convSample 8 0x7FFFFF00 = 0xFFFF ∧
    convSample 31 0x80000000 = 0xFFFF ∧ convSample 0 0xFFFFFF00 = 0xFF00 := by decide

/-- ACQ-2. -/
theorem test_acq : after (exec .acq { p0 with acqCur := [some 0, some 1], acqOff := 4, free := held 2 })
    (fun s => (s.flow, s.live, s.acqCur, s.acqOff, poolFree s)) =
    some ([some 0, some 1], [some 0, some 1], [some 2, some 3], 0, 12) := by decide

/-- ACQ-3: one block free. -/
theorem test_acq_fails : after (exec .acq { p0 with acqCur := [some 0, some 1], acqOff := 4, free := held 15 })
    (fun s => (s.flow, s.acqCur, s.cnt.allocfail, s.err.poolfail, poolFree s)) =
    some ([some 0, some 1], [none, none], 1, true, 1) := by decide

/-- DL-1, tick 3: C in, A out. -/
theorem test_dl : after
    (exec .dl { p0 with cfg := { p0.cfg with delay := 2 }, dlHead := 2, flow := [some 2, none],
                        dlSlot := [[none, some 0, some 1, none], noBlocks 4] })
    (fun s => (s.flow, s.dlHead, s.dlSlot)) =
    some ([some 0, none], 3, [[none, none, some 1, some 2], noBlocks 4]) := by decide

/-- DL-4, DL-6. -/
theorem test_dl_passes :
    [4, (-1 : Word)].map (fun d =>
      after (exec .dl { p0 with cfg := { p0.cfg with delay := d }, flow := [some 2, none] }) (fun s => (s.flow, s.dlHead))) =
    List.replicate 2 (some ([some 2, none], 0)) := by decide

/-- The detector of a state whose block 0 is live and in transit for channel 0. -/
def detecting (xs : List Sample) (thresh nest prev sig : Word) : State :=
  withBlock 0 xs
    { p0 with cfg := { p0.cfg with thresh := thresh, extr := 3, inhib := 2, closeEv := true },
              det := { p0.det with sigcount := sig }, chans := [{ Chan.zero with nest := nest, prev := prev }, Chan.zero],
              live := [some 0, none], flow := [some 0, none], free := held 1 }

/-- DET-1, with DET-9c's detection and DET-10's tick 10. -/
theorem test_det : after (exec .det (detecting [0, 10, 10, -20] 5 0 0 (-2)))
    (fun s => (chanAt s 0, s.det.sigcount.toInt, s.det.detcnt, s.flow)) =
    some ({ nest := 250, maxsq := 900, avg := 250, prev := 0xFFFFFFEC }, 2, 1, [some 0, none]) := by decide

/-- DET-4 and DET-10's ticks 12 and 13. -/
theorem test_det_quiet :
    after (exec .det (detecting [5, 5, 5, 5] 5 0 5 1))
      (fun s => ((chanAt s 0).maxsq, s.det.sigcount.toInt, s.err.mustclose, s.flow)) = some (0, 0, true, [some 0, none]) ∧
    after (exec .det (detecting [5, 5, 5, 5] 5 0 5 0)) (fun s => (s.det.sigcount.toInt, s.flow, poolFree s)) =
      some (-1, [none, none], 16) := by decide

/-- DET-7, DET-8b, DET-8c; DET-9b, DET-9f; DET-3. -/
theorem test_det_arithmetic :
    nestUpdate 1280 1024 100 = 1278 ∧ nestUpdate 100 0 3 = 67 ∧ nestUpdate 7 0 2 = 4 ∧
    chanDetects 2 { Chan.zero with nest := 100, maxsq := 200 } = false ∧
    chanDetects 2147483647 { Chan.zero with nest := 4294967295, maxsq := 4294836225 } = false ∧
    blockStats 4 [32767, -32768, 32767, -32768] Chan.zero =
      { nest := 0, maxsq := 4294836225, avg := 3489546241, prev := 0xFFFF8000 } := by decide

/-- DET-16. -/
theorem test_det_refused : refusal (exec .det (State.resetOf { Build.instanceP with POLICY := .centroid })) =
    some .spectralCentroidPolicy := by decide

/-- MUX-1 with A = [0, 1, 2, 3] in block 0 and B = [10, 11, 12, 13] in block 1. -/
theorem test_mux : after (exec .mux (withBlock 0 [0, 1, 2, 3] (withBlock 1 [10, 11, 12, 13]
      { m0 with flow := [some 0, some 1], free := held 2 })))
    (fun s => (samples 2 s ++ samples 3 s, (queueAt s 0).slots, poolFree s)) =
    some ([0, 10, 1, 11, 2, 12, 3, 13], [some 2, some 3, none], 14) := by decide

/-- MUX-4 and, of a pool of 16, MUX-5. -/
theorem test_mux_drops :
    after (exec .mux { m0 with muxIn := [some 0, none], flow := [some 1, none], free := held 2 })
      (fun s => (s.muxIn, s.cnt.muxdrop, s.err.muxovr, poolFree s)) = some ([some 0, none], 1, true, 15) ∧
    after (exec .mux { m0 with flow := [some 0, some 1], free := held 16 })
      (fun s => (s.muxIn, s.cnt.muxpoolfail, s.err.muxpool, poolFree s)) = some ([none, none], 1, true, 2) := by decide

/-- Q-3: C = 2 is dropped. -/
theorem test_qpush_full : after
    (exec .qpush { q0 { ring [some 0, some 1, none] 2 0 false with drop := 0 } with flow := [some 2, none] })
    (fun s => ((queueAt s 0), s.err.qfull, poolFree s, s.flow)) =
    some (ring [some 0, some 1, none] 2 0 false, true, 14, [none, none]) := by decide

/-- Q-9. -/
theorem test_qpush : after (exec .qpush { q0 (ring [none, some 1, none] 2 1 true) with flow := [some 2, none] })
    (fun s => (queueAt s 0)) = some (ring [none, some 1, some 2] 0 1 true) := by decide

-- Reserved words and reset as steps

/-- BUS-24, CMD-8, EVT 0b11, a power cycle. -/
theorem test_step_rejected :
    after (step { p0 with inputs := [.bus 0x30000 0], rdata := 9 }) (fun s => (s.rdata, s.err.buserr)) = some (0, true) ∧
    after (step { p0 with inputs := [.cmd 0x04000000], result := 5 }) (fun s => (s.result, s.err.cmderr)) =
      some (5, true) ∧
    refusal (step { p0 with inputs := [.evt 0b11] }) = some .reservedEventCode ∧
    after (step { p0 with inputs := [.power], run := true, result := 5 }) (fun s => (s.run, s.result, s.boots)) =
      some (false, 0, 1) := by decide

-- Witnesses: a state and operands that meet the hypotheses of each statement that has some

/-- Mid-session: blocks 0 and 1 current, 2 lent by queue 0, 3 and 4 in queue 1 (full), 5 and 6 in the delay line. -/
def mid : State :=
  { p0 with run := true, cfg := { p0.cfg with thresh := 2, delay := 1, inhib := 2, extr := 3 },
            acqCur := [some 0, some 1], free := held 7, dlHead := 1, evPend := true,
            dlSlot := [[none, some 5, none, none], [none, some 6, none, none]],
            queues := [ring [some 2, none, none] 1 0 true, ring [some 3, some 4, none] 2 0 false] }

/-- The same with the detector disabled. -/
def bypassed : State := { mid with cfg := { mid.cfg with thresh := -1 } }

/-- A stopped state. -/
def stopped : State := { mid with run := false }

/-- A build at the upper bounds of R7. -/
def largest : Build :=
  { L := 128, N := 16, NBLK := 128, DCAP := 255, QCAP := 255, MUXED := true, POLICY := .energy, basePage := 0,
    alloc := .anyFree }

theorem test_witness_DecodeReadsBackEveryEncoding : (Instr.qclear 15).wellFormed = true ∧ Instr.mux.wellFormed = true := by
  decide

theorem test_witness_BusDescriptorsSelectTheirRow :
    (0x2FFFF : BitVec 19) &&& 0x70000 = 0x20000 ∧ (0x10000 : BitVec 19) &&& 0x70000 = 0x10000 ∧
    (0x0FFFF : BitVec 19) &&& 0x70000 = 0x00000 ∧ (0x60000 : BitVec 19) &&& 0x70000 = 0x60000 ∧
    (0x5FFFF : BitVec 19) &&& 0x70000 = 0x50000 ∧ (0x40000 : BitVec 19) &&& 0x70000 = 0x40000 ∧
    (0x30000 : BitVec 19) &&& 0x30000 = 0x30000 ∧ (0x7FFFF : BitVec 19) &&& 0x30000 = 0x30000 := by decide

theorem test_witness_BeatsEventsAndPhasesSelectTheirRow :
    (0x1FFFFFFFF : BitVec 33) &&& 0x100000000 = 0x100000000 ∧ (0x0FFFFFFFF : BitVec 33) &&& 0x100000000 = 0 := by decide

theorem test_witness_StepRunsTheDecodedInstruction :
    buildValid mid.build = true ∧ decode (.phase 0b011) = .ok .det ∧
    { mid with inputs := [.phase 0b011] }.inputs = .phase 0b011 :: [] := by decide

theorem test_witness_ReservedWordsHaveTheirStatedEffect :
    buildValid mid.build = true ∧ isReservedCmd 0x00010000 = true ∧ isReservedCmd 0xFFFFFFFF = true ∧
    (0x30000 : BitVec 19) &&& 0x30000 = 0x30000 ∧ (0x30000 : BitVec 19) &&& 0x40000 = 0 ∧
    (0x70000 : BitVec 19) &&& 0x30000 = 0x30000 ∧ (0x70000 : BitVec 19) &&& 0x40000 ≠ 0 ∧
    (0 : BitVec 33) &&& 0x100000000 = 0 := by decide

/-- Each bound of R7 and R331, one past it. -/
theorem test_witness_InvalidInstancesAreRefused :
    [{ Build.instanceP with MUXED := true, L := 5 }, { Build.instanceP with L := 0 }, { Build.instanceP with L := 2049 },
     { Build.instanceP with N := 0 }, { Build.instanceP with N := 17 }, { Build.instanceP with NBLK := 0 },
     { Build.instanceP with NBLK := 65536 }, { Build.instanceP with DCAP := 0 }, { Build.instanceP with DCAP := 256 },
     { Build.instanceP with QCAP := 0 }, { Build.instanceP with QCAP := 256 },
     { Build.instanceP with L := 2048, N := 2, NBLK := 1 }, { Build.instanceP with NBLK := 4097 }].map
      (fun b => refusal (step (State.resetOf b))) = List.replicate 13 (some .invalidBuild) ∧
    buildValid largest = true := by decide

theorem test_witness_IdleStepsChangeNothing :
    buildValid p0.build = true ∧ p0.inputs = [] ∧ p0.evPend = false ∧ mid.evKind ≠ .full ∧ p0.build.MUXED = false ∧
    (∀ c < mid.build.N, slotAt mid.flow c = none) := by decide

theorem test_witness_session_commands : mid.run = true ∧ stopped.run = false := by decide

theorem test_witness_QueueCommandsRefuseBadIndex :
    (if mid.build.MUXED then 1 else mid.build.N) ≤ 2 ∧ (if m0.build.MUXED then 1 else m0.build.N) ≤ 1 := by decide

theorem test_witness_queue_commands :
    0 < mid.build.NQ ∧ mid.queues[0]? = some (ring [some 2, none, none] 1 0 true) ∧
    QueueShaped mid.build (ring [some 2, none, none] 1 0 true) ∧ mid.build.QCAP ≤ 255 ∧
    1 < mid.build.NQ ∧ mid.queues[1]? = some (ring [some 3, some 4, none] 2 0 false) ∧
    (ring [some 3, some 4, none] 2 0 false).head ≠ (ring [some 3, some 4, none] 2 0 false).tail ∧
    (ring [some 3, some 4, none] 2 0 false).slots[0]? = some (some 3) ∧
    ((1 : Nat) : Int) = (((1 : Nat) : Int) - ((0 : Nat) : Int)) % ((mid.build.QCAP : Int) + 1) := by decide

/-- Channel 0 finds room in queue 0; channel 1 finds queue 1 full; in a MUXED build channel 1's block goes to queue 0. -/
theorem test_witness_QpushStoresOrDrops :
    slotAt [some 5, some 6] 0 = some 5 ∧ (1 + 1) % (mid.build.QCAP + 1) ≠ 0 ∧
    slotAt [none, some 6] 1 = some 6 ∧ (∀ k < 1, slotAt [none, some 6] k = none) ∧ 1 < mid.build.N ∧
    mid.queues[1]? = some (ring [some 3, some 4, none] 2 0 false) ∧ (2 + 1) % (mid.build.QCAP + 1) = 0 ∧
    0 = (if m0.build.MUXED then 0 else 1) ∧ m0.queues[0]? = some (Queue.empty m0.build) := by decide

theorem test_witness_QueueRefinesABoundedFifo :
    buildValid mid.build = true ∧ mid.queues[1]? = some (ring [some 3, some 4, none] 2 0 false) ∧
    QueueShaped mid.build (ring [some 3, some 4, none] 2 0 false) ∧
    QueueFilled mid.build (ring [some 3, some 4, none] 2 0 false) ∧
    queuedBlocks mid.build (queueAt mid 1) = [some 3, some 4] ∧
    (queuedBlocks mid.build (queueAt mid 1)).length = mid.build.QCAP ∧
    (queuedBlocks mid.build (queueAt mid 0)).length < mid.build.QCAP ∧
    QueueFilled mid.build (ring [some 2, none, none] 1 0 true) := by decide

theorem test_witness_QueueCountIsPushesMinusPops :
    buildValid p0.build = true ∧ p0.queues[0]? = some (Queue.empty p0.build) ∧ QueueShaped p0.build (Queue.empty p0.build) ∧
    popsMeetBlocks 0 [some 4, none, some 5] = true ∧
    ([some 4, none, some 5] : List Slot).countP Option.isSome ≤ p0.build.QCAP := by decide

theorem test_witness_ChannelAndQueueRegistersReadTheirState :
    buildValid mid.build = true ∧ 1 < mid.build.N ∧ mid.chans[1]? = some Chan.zero ∧ 1 < mid.build.NQ ∧
    mid.queues[1]? = some (ring [some 3, some 4, none] 2 0 false) ∧
    QueueShaped mid.build (ring [some 3, some 4, none] 2 0 false) := by decide

/-- The last word of RAW, the first beyond it, and an odd offset. -/
theorem test_witness_RawWindowIsReadOnlyWords :
    (0x403C - 0x4000) / 4 < 2 * mid.build.H ∧ 2 * mid.build.H ≤ (0x4040 - 0x4000) / 4 ∧
    ¬ (0x7FFF : BitVec 16).toNat % 4 = 0 := by decide

/-- The last sample and the last pair of the pool, and lent ones. -/
theorem test_witness_PoolWindowReadsLentSamples :
    (0x807E : BitVec 16).toNat = 0x8000 + 2 * 63 ∧ 63 < mid.build.NBLK * mid.build.L ∧
    (0x807C : BitVec 16).toNat = 0x8000 + 2 * 62 ∧ 62 + 1 < mid.build.NBLK * mid.build.L ∧
    lent mid (8 / mid.build.L) = true ∧ lent mid ((8 + 1) / mid.build.L) = true ∧ lent mid (63 / mid.build.L) = false := by
  decide

theorem test_witness_AccessesAreRefusedExactlyAsStated :
    [Instr.rd32 0x064, .rd32 0x11C, .rd32 0x218, .rd32 0x403C, .rd32 0x807C, .rd16 0x807E, .wr32 0x110 0].map
      (fun i => (isAccess i, accessRefused mid.build i)) = List.replicate 7 (true, false) ∧
    [Instr.rd32 0x068, .rd32 0x120, .rd32 0x21C, .rd32 0x4040, .rd32 0x8080, .rd16 0x8080, .wr32 0x114 0, .rd8 0,
     .wr16 0x020 0, .wr8 0x020 0].map (fun i => (isAccess i, accessRefused mid.build i)) =
      List.replicate 10 (true, true) := by decide

theorem test_witness_ConfigWritesNeedStoppedAndLegal :
    mid.run = true ∧ stopped.run = false ∧ 1 < stopped.build.N ∧ stopped.chans[1]? = some Chan.zero := by decide

theorem test_witness_CommandWriteRunsTheCommand :
    decode (.cmd 0x02000000) = .ok .stop ∧ (if mid.build.MUXED then 1 else mid.build.N) ≤ 15 ∧
    decode (.cmd 0x130F0000) = .ok (.qclear 15) ∧ isReservedCmd 0x130F0001 = true := by decide

theorem test_witness_HostNeverWritesSamples : ∃ t, fromHost (.qread 1) = true ∧ exec (.qread 1) mid = .next t :=
  ⟨_, by decide, rfl⟩

theorem test_witness_DmaBeatStoresAndAdvances :
    1 ≤ mid.build.H ∧ mid.dmaPos < 2 * mid.build.H ∧ { mid with dmaPos := 15 }.dmaPos < 2 * mid.build.H := by decide

theorem test_witness_service :
    (stopped.evPend = true ∧ stopped.evKind = .half ∧ stopped.run = false) ∧ serviceDue .half mid ∧
    serviceDue .half bypassed ∧ bypassed.cfg.thresh.toInt < 0 ∧ mid.build.POLICY = .energy := by decide

theorem test_witness_CentroidBuildsRefuseTheDetector :
    { mid.build with POLICY := .centroid }.POLICY = .centroid ∧ 0 ≤ mid.cfg.thresh.toInt ∧
    serviceDue .half { mid with build := { mid.build with POLICY := .centroid } } ∧
    serviceDue .half { bypassed with build := { mid.build with POLICY := .centroid } } := by decide

theorem test_witness_IsrDemultiplexesTheFinishedHalf :
    slotAt p0.acqCur 0 = none ∧ (slotAt mid.acqCur 0).isSome = true ∧ buildValid mid.build = true ∧
    mid.acqCur.length = mid.build.N ∧ mid.acqCur.Nodup ∧ (∀ o ∈ mid.acqCur, o.isSome = true) := by decide

theorem test_witness_AcquisitionSwapsAllOrNothing :
    (slotAt mid.acqCur 0).isSome = true ∧ { mid with acqOff := 4 }.acqOff = mid.build.L ∧ mid.acqOff ≠ mid.build.L ∧
    mid.build.N ≤ (held 14).count true ∧ (held 15).count true < mid.build.N ∧ slotAt p0.acqCur 0 = none := by decide

theorem test_witness_DelayLineStoresAndEmits :
    p0.cfg.delay.toInt ≤ 0 ∧ (mid.build.DCAP : Int) ≤ (4 : Word).toInt ∧ 0 < mid.cfg.delay.toInt ∧
    mid.cfg.delay.toInt < (mid.build.DCAP : Int) ∧
    ((1 : Nat) : Int) = (((2 : Nat) : Int) - mid.cfg.delay.toInt) % (mid.build.DCAP : Int) := by decide

/-- DL-7's tuples with DELAY = 2. -/
theorem test_witness_DelayLineDelaysByExactlyDelayTicks :
    0 < (2 : Word).toInt ∧ (2 : Word).toInt < (p0.build.DCAP : Int) ∧ p0.dlHead < p0.build.DCAP ∧
    p0.dlSlot = List.replicate p0.build.N (List.replicate p0.build.DCAP none) ∧
    (∀ x ∈ ([[some 0, none], [none, none], [some 2, none], [none, none], [none, none]] : List (List Slot)),
      x.length = p0.build.N) := by decide

theorem test_witness_detector :
    mid.build.POLICY = .energy ∧ 0 ≤ mid.cfg.thresh.toInt ∧ 1 ≤ mid.build.L ∧ mid.build.L ≤ 2048 ∧
    mid.chans.length = mid.build.N ∧ StatsInRange mid ∧ LegalConfig mid ∧ bypassed.cfg.thresh.toInt < 0 ∧
    mid.chans[0]? = some Chan.zero ∧ slotAt { mid with live := [some 0, none] }.live 0 = some 0 ∧
    slotAt { mid with live := [some 0, none] }.live 1 = none := by decide

theorem test_witness_NoiseEstimateMovesTowardTheMean :
    0 < (1 : Word).toInt ∧ 0 < (0x7FFFFFFF : Word).toInt ∧
    |((1280 : Word).toNat : Int) - ((1024 : Word).toNat : Int)| < (1000 : Word).toInt := by decide

/-- Channel 0 pending, a second block for it (1) and one for channel 1 (2): block 1 goes back to the pool. -/
def clashing : State := { m0 with muxIn := [some 0, none], flow := [some 1, some 2], free := held 3 }

theorem released_clash : releasedBlocks clashing.free
    (fun h => ∃ k < clashing.build.N, ((slotAt clashing.muxIn k).isSome && (slotAt clashing.flow k).isSome) = true ∧
      slotAt clashing.flow k = some h) ([false, true, false] ++ List.replicate 13 true) := by
  refine ⟨by decide, fun h => ?_⟩
  by_cases hh : h < 16
  · have : ∀ h < 16, (([false, true, false] ++ List.replicate 13 true).getD h false = true ↔
        clashing.free.getD h false = true ∨ (h < clashing.free.length ∧ ∃ k < clashing.build.N,
          ((slotAt clashing.muxIn k).isSome && (slotAt clashing.flow k).isSome) = true ∧
          slotAt clashing.flow k = some h)) := by decide
    exact this h hh
  · have h1 : ¬ h < clashing.free.length := hh
    have h2 : 16 ≤ h := Nat.le_of_not_lt hh
    simp [List.getD, h1]
    rw [List.getElem?_eq_none (by simpa using h2)]; rfl

theorem test_witness_MultiplexerInterleavesTheFrame :
    buildValid clashing.build = true ∧ clashing.build.MUXED = true ∧ clashing.muxIn.length = clashing.build.N ∧
    (∀ k < clashing.build.N, ((slotAt clashing.muxIn k).or (slotAt clashing.flow k)).isSome = true) ∧
    clashing.build.N ≤ ([false, true, false] ++ List.replicate 13 true).count true ∧
    ([false, true, false] ++ List.replicate 13 true).getD 0 false = false ∧
    ([false, true, false] ++ List.replicate 13 true).getD 2 false = false := by decide

theorem test_witness_MultiplexerWaitsForEveryChannel :
    m0.build.MUXED = true ∧ m0.muxIn.length = m0.build.N ∧ 1 < m0.build.N ∧ slotAt m0.muxIn 1 = none ∧
    slotAt { m0 with flow := [some 0, none] }.flow 1 = none := by decide

/-- MUX-5: nothing free, no clash. -/
theorem test_witness_MultiplexerDropsFrameWithoutBlocks :
    m0.build.MUXED = true ∧ m0.muxIn.length = m0.build.N ∧
    (∀ k < m0.build.N, ((slotAt m0.muxIn k).or (slotAt [some 0, some 1] k)).isSome = true) ∧
    (held 16).count true < m0.build.N ∧
    releasedBlocks (held 16) (fun h => ∃ k < m0.build.N, ((slotAt m0.muxIn k).isSome &&
      (slotAt [some 0, some 1] k).isSome) = true ∧ slotAt [some 0, some 1] k = some h) (held 16) := by
  refine ⟨by decide, by decide, by decide, by decide, rfl, fun h => ⟨Or.inl, ?_⟩⟩
  rintro (h' | ⟨-, k, hk, hc, -⟩)
  · exact h'
  · have : ∀ k < m0.build.N, (slotAt m0.muxIn k).isSome = false := by decide
    simp [this k hk] at hc

theorem test_witness_ResetGivesTheResetTable :
    buildValid mid.build = true ∧ { mid with inputs := [.power] }.inputs = .power :: [] := by decide

theorem test_witness_ResetMeetsTheInvariants : buildValid Build.instanceP = true ∧ buildValid largest = true := by decide

theorem mid_invariant : BlockInvariant mid := by decide

/-- The tick of a running session, as the step of the four invariants and of the rules over every step. -/
theorem test_witness_step_invariants : ∃ t,
    BlockInvariant { bypassed with inputs := [.evt 0b01] } ∧ LegalConfig bypassed ∧ StatsInRange bypassed ∧
    Memory.wf bypassed.mem = true ∧ -bypassed.cfg.inhib.toInt ≤ bypassed.det.sigcount.toInt ∧
    nextIsPhase { bypassed with inputs := [.evt 0b01] } = false ∧
    nextIsPower { bypassed with inputs := [.evt 0b01] } = false ∧
    nextWrites 0x030 { bypassed with inputs := [.evt 0b01] } = false ∧
    step { bypassed with inputs := [.evt 0b01] } = .next t :=
  ⟨_, by decide, by decide, by decide, by decide, by decide, by decide, by decide, by decide, rfl⟩

theorem test_witness_ConfigurationIsFrozenInASession : ∃ t,
    mid.run = true ∧ nextIsPower { mid with inputs := [.bus (busDesc 0b110 0x020) 5] } = false ∧
    step { mid with inputs := [.bus (busDesc 0b110 0x020) 5] } = .next t :=
  ⟨_, by decide, by decide, rfl⟩

theorem test_witness_OnlySessionCommandsChangeRun : ∃ t,
    touchesRun (.wr32 0x010 0x3FF) = false ∧ exec (.wr32 0x010 0x3FF) mid = .next t := ⟨_, by decide, rfl⟩

theorem test_witness_StickyBitsStayUntilCleared : ∃ t,
    { Errors.none with qfull := true }.get .qfull = true ∧
    nextWrites 0x010 { mid with inputs := [.cmd 0x03000000] } = false ∧
    nextIsPower { mid with inputs := [.cmd 0x03000000] } = false ∧
    step { mid with inputs := [.cmd 0x03000000], err := { Errors.none with qfull := true } } = .next t :=
  ⟨_, by decide, by decide, by decide, rfl⟩

theorem test_witness_DetectorRegistersKeptByTheRest : ∃ t,
    (∀ a d, Instr.start ≠ .wr32 a d) ∧ Instr.start ≠ .detrst ∧ Instr.start ≠ .det ∧ exec .start stopped = .next t :=
  ⟨_, nofun, nofun, nofun, rfl⟩

/-- Block 2 stays lent over a tick. -/
theorem test_witness_LentBlocksAreStable : ∃ t,
    step { bypassed with inputs := [.evt 0b01] } = .next t ∧ 0 < bypassed.build.NQ ∧
    (queueAt bypassed 0).borrow = true ∧ queueOldest (queueAt bypassed 0) = some 2 ∧
    (queueAt t 0).borrow = true ∧ queueOldest (queueAt t 0) = some 2 :=
  ⟨_, rfl, by decide, by decide, by decide, rfl, rfl⟩

end Sys2Proof.Tests
end

section
/-! Build constraints (00_scope.md R7, 44_multiplexer.md R331): what a valid build satisfies, and what a step of any other
build does. -/

namespace Sys2Proof.Machine

/-- Every parameter range of R7, and the divisibility of R331. -/
theorem buildValid_iff (b : Build) : buildValid b = true ↔
    1 ≤ b.L ∧ b.L ≤ 2048 ∧ 1 ≤ b.N ∧ b.N ≤ 16 ∧ 1 ≤ b.NBLK ∧ b.NBLK ≤ 65535 ∧ b.NBLK * 2 * b.L ≤ 32768 ∧
      1 ≤ b.DCAP ∧ b.DCAP ≤ 255 ∧ 1 ≤ b.QCAP ∧ b.QCAP ≤ 255 ∧ b.L * b.N ≤ 2048 ∧ (b.MUXED = true → b.L % b.N = 0) :=
  decide_eq_true_iff

/-- The build is looked at before any input is fetched, so the input does not matter (R463(b)). -/
theorem step_of_not_buildValid {s : State} (h : ¬ buildValid s.build = true) : step s = .refused .invalidBuild :=
  if_neg h

/-- Settles O8: in either clause a constraint of a valid build is contradicted, and a step of a build that is not valid is
refused. -/
theorem invalidInstancesAreRefused : Obligations.InvalidInstancesAreRefused := by
  refine fun s => ⟨fun hmuxed hrem => step_of_not_buildValid fun hvalid => ?_,
    fun hout => step_of_not_buildValid fun hvalid => ?_⟩
  all_goals
    obtain ⟨hL, hL', hN, hN', hNBLK, hNBLK', hpool, hDCAP, hDCAP', hQCAP, hQCAP', hframe, hdvd⟩ :=
      (buildValid_iff s.build).mp hvalid
  · exact hrem (hdvd hmuxed)
  · omega

end Sys2Proof.Machine
end

section
/-! What one step can do, said once: the effects of an instruction, of an input that is none, and the phases of a tick.
The invariants and the rules over every step are proved effect by effect. -/

namespace Sys2Proof.Machine

-- The phases of a tick

/-- What one phase of a tick does (R203, R360); the detector either discards what is in transit or runs (R291, R292). -/
inductive PhaseEffect (s : State) : Instr → State → Prop
  | isr : PhaseEffect s .isr (isrPhase s)
  | acq : PhaseEffect s .acq (acqPhase s)
  | dl : PhaseEffect s .dl (dlPhase s)
  | discarded : PhaseEffect s .det (discardFlow s)
  | detected : PhaseEffect s .det (detUpdate s)
  | mux : PhaseEffect s .mux (muxPhase s)
  | qpush : PhaseEffect s .qpush (pushPhase s)

theorem detPhase_cases {s t : State} (h : detPhase s = .next t) : t = discardFlow s ∨ t = detUpdate s := by
  unfold detPhase at h
  split at h
  · cases h
  · split at h <;> cases h
    · exact .inl rfl
    · exact .inr rfl

theorem detPhase_effect {s t : State} (h : detPhase s = .next t) : PhaseEffect s .det t := by
  obtain rfl | rfl := detPhase_cases h
  · exact .discarded
  · exact .detected

/-- A tick is a service of both sources, perhaps of the delay line and the detector, and of the sink (R203-R205). -/
theorem tick_cases {s t : State} (h : tick s = .next t) :
    t = endTick (sinkPhases (acqPhase (isrPhase s))) ∨
      ∃ u, detPhase (dlPhase (acqPhase (isrPhase s))) = .next u ∧ t = endTick (sinkPhases u) := by
  unfold tick tickRoute at h
  split at h
  · cases h
    exact .inl rfl
  · split at h
    · rename_i u hu
      cases h
      exact .inr ⟨u, hu, rfl⟩
    · cases h
    · cases h

/-- What every phase keeps, n pushes keep. -/
theorem pushAll_keeps {P : State → Prop} (hpush : ∀ s, P s → P (pushPhase s)) (n : Nat) {s : State} (hs : P s) :
    P (pushAll n s) := by
  induction n generalizing s with
  | zero => exact hs
  | succ n ih => exact ih (hpush s hs)

/-- What every phase and the end of a tick keep, a tick keeps. -/
theorem tick_keeps {P : State → Prop} (hphase : ∀ {s i t}, PhaseEffect s i t → P s → P t)
    (hend : ∀ {s}, P s → P (endTick s)) {s t : State} (h : tick s = .next t) (hs : P s) : P t := by
  have hsink {u : State} (hu : P u) : P (endTick (sinkPhases u)) := by
    apply hend
    unfold sinkPhases
    split
    · exact hphase .mux hu
    · exact pushAll_keeps (P := P) (fun _ => hphase .qpush) _ hu
  have hacq : P (acqPhase (isrPhase s)) := hphase .acq (hphase .isr hs)
  obtain rfl | ⟨u, hu, rfl⟩ := tick_cases h
  · exact hsink hacq
  · exact hsink (hphase (detPhase_effect hu) (hphase .dl hacq))

-- The effects

/-- What an input does that has a next state: `x` is the instruction it decodes to, or why it is none. -/
inductive Effect (s : State) : Except Reject Instr → State → Prop
  /-- NOP, an idle port, a service without its completion. -/
  | idle (x) : Effect s x s
  /-- A refused write or command, or an illegal configuration value: one sticky bit (R365, R411, R425, R426). -/
  | raised (x) (c : Cause) : Effect s x (raise c s)
  /-- A performed read; one of unlent samples takes free values (R420, log 7). -/
  | answered (x) (w : Word) (k : Nat) : Effect s x { s with rdata := w, draws := k }
  /-- A refused read (R425). -/
  | readRefused (x) : Effect s x (refuseRead s)
  /-- QAVAIL, or START while a session runs (R361, R401). -/
  | resulted (x) (w : Word) : Effect s x (setResult w s)
  /-- A write to STATUS (R423). -/
  | statusCleared (d : Word) : Effect s (.ok (.wr32 0x010 d)) (clearStatus d s)
  /-- A performed configuration write (R81). -/
  | configured (a : BitVec 16) (d : Word) (r : Reg) (hreg : regAt s.build a.toNat = some r) (hrun : s.run = false)
      (hlegal : legalValue r d = true) : Effect s (.ok (.wr32 a d)) (writeConfig r d s)
  /-- START while stopped (R401). -/
  | began (i : Instr) (hi : touchesRun i = true) : Effect s (.ok i) (beginSession s)
  /-- STOP (R402). -/
  | ended (i : Instr) (hi : touchesRun i = true) (w : Word) : Effect s (.ok i) { s with result := w, run := false }
  /-- DETRST (R403). -/
  | detectorReset (i : Instr) (hi : i = .detrst ∨ ∃ a d, i = .wr32 a d) :
      Effect s (.ok i)
        { s with det := { sigcount := -s.cfg.inhib, wdog := 0, detcnt := 0, noisecnt := 0 }
                 chans := List.replicate s.build.N Chan.zero, result := 1 }
  /-- QREAD (R362). -/
  | borrowed (x) (q : Nat) (hq : q < s.build.NQ) : Effect s x (borrowOldest q s)
  /-- QFREE (R363). -/
  | returned (x) (q : Nat) (hq : q < s.build.NQ) : Effect s x (returnLent q s)
  /-- QCLEAR (R364). -/
  | drained (x) (q : Nat) (hq : q < s.build.NQ) : Effect s x (drainQueue q s)
  /-- A beat inside a half (R200). -/
  | beat (d : Word) : Effect s (.ok (.dmaWr d)) (storeBeat d s)
  /-- A beat that ends a half (R200). -/
  | completed (d : Word) (k : EvKind) : Effect s (.ok (.dmaWr d)) (complete k (storeBeat d s))
  /-- A service while stopped (R202). -/
  | serviced (k : EvKind) : Effect s (.ok (serviceOf k)) { s with evPend := false }
  /-- A service with its tick (R203). -/
  | ticked (k : EvKind) {t : State} (h : tick { s with evPend := false } = .next t) : Effect s (.ok (serviceOf k)) t
  /-- A bare phase code (log 4). -/
  | phase {i : Instr} {t : State} (h : PhaseEffect s i t) : Effect s (.ok i) t
  /-- A power cycle (R500). -/
  | power : Effect s (.error .powerCycle) (powerCycle s)

-- Commands

theorem onQueue_effect {x : Except Reject Instr} {q : Nat} {f : State → State} {s t : State}
    (hf : q < s.build.NQ → Effect s x (f s)) (h : onQueue q f s = .next t) : Effect s x t := by
  unfold onQueue at h
  split at h <;> cases h
  · exact hf ‹_›
  · exact .raised x .cmderr

theorem execStart_effect {i : Instr} (hi : touchesRun i = true) {s t : State} (h : execStart s = .next t) :
    Effect s (.ok i) t := by
  unfold execStart at h
  split at h <;> cases h
  · exact .resulted _ 0
  · exact .began i hi

/-- A command has the same effects at the CMD port and in a write to CMD (R141, R410). -/
theorem command_effect {i : Instr} (c : Command) (hi : i = c.toInstr ∨ ∃ w, i = .wr32 0x014 w) {s t : State}
    (h : exec c.toInstr s = .next t) : Effect s (.ok i) t := by
  have hrun (hc : touchesRun c.toInstr = true) : touchesRun i = true := by
    obtain rfl | ⟨w, rfl⟩ := hi
    · exact hc
    · rfl
  cases c with
  | nop => cases h; exact .idle _
  | start => exact execStart_effect (hrun rfl) h
  | stop => cases h; exact .ended i (hrun rfl) _
  | detrst => cases h; exact .detectorReset i (hi.imp_right fun ⟨w, hw⟩ => ⟨_, w, hw⟩)
  | qavail q => exact onQueue_effect (fun _ => .resulted _ _) h
  | qread q => exact onQueue_effect (.borrowed _ q) h
  | qfree q => exact onQueue_effect (.returned _ q) h
  | qclear q => exact onQueue_effect (.drained _ q) h

theorem runCommandWord_of_decodeCmd {w : Word} {c : Command} (h : decodeCmd w = some c) (s : State) :
    runCommandWord w s = exec c.toInstr s := by
  unfold runCommandWord
  rw [h]
  cases c <;> rfl

theorem runCommandWord_of_reserved {w : Word} (h : decodeCmd w = none) (s : State) :
    runCommandWord w s = .next (refuseCommand s) := by
  unfold runCommandWord
  rw [h]

-- Bus accesses

/-- A sample read advances the count of free values and nothing else. -/
theorem hostSample_frame (s : State) (g : Nat) : (hostSample s g).2 = { s with draws := (hostSample s g).2.draws } := by
  unfold hostSample
  split <;> rfl

theorem readRegister_effect (x : Except Reject Instr) (a : Nat) (s : State) : Effect s x (readRegister a s) := by
  unfold readRegister
  split
  · exact .answered x _ s.draws
  · exact .readRefused x

theorem readRawWindow_effect (x : Except Reject Instr) (a : Nat) (s : State) : Effect s x (readRawWindow a s) := by
  unfold readRawWindow
  split
  · exact .answered x _ s.draws
  · exact .readRefused x

theorem readSampleOne_effect (x : Except Reject Instr) (g : Nat) (s : State) : Effect s x (readSampleOne g s) := by
  change Effect s x (answerRead _ (hostSample s g).2)
  rw [hostSample_frame]
  exact .answered x _ _

theorem readPoolWindow_effect (x : Except Reject Instr) (a : Nat) (s : State) : Effect s x (readPoolWindow a s) := by
  unfold readPoolWindow
  split
  · change Effect s x (answerRead _ (hostSample (hostSample s _).2 _).2)
    rw [hostSample_frame (hostSample s _).2, hostSample_frame s]
    exact .answered x _ _
  · exact .readRefused x

theorem execRd32_effect {x : Except Reject Instr} {a : BitVec 16} {s t : State} (h : execRd32 a s = .next t) :
    Effect s x t := by
  unfold execRd32 at h
  split at h
  · cases h; exact .readRefused x
  · split at h
    · cases h; exact readRegister_effect x _ s
    · split at h <;> cases h
      · exact readRawWindow_effect x _ s
      · exact readPoolWindow_effect x _ s

theorem execRd16_effect {x : Except Reject Instr} {a : BitVec 16} {s t : State} (h : execRd16 a s = .next t) :
    Effect s x t := by
  unfold execRd16 at h
  split at h <;> cases h
  · exact readSampleOne_effect x _ s
  · exact .readRefused x

/-- STATUS, CMD and INHIB stand at one offset each (R50, R52, R53). -/
theorem offset_of_globalReg {a : Nat} {r : Reg} (h : globalReg a = some r) :
    (r = .status → a = 0x010) ∧ (r = .cmd → a = 0x014) ∧ (r = .inhib → a = 0x030) := by
  unfold globalReg at h
  split at h <;> cases h <;> simp

theorem offset_of_regAt {b : Build} {a : BitVec 16} {r : Reg} (h : regAt b a.toNat = some r) :
    (r = .status → a = 0x010) ∧ (r = .cmd → a = 0x014) ∧ (r = .inhib → a = 0x030) := by
  unfold regAt at h
  split at h
  · obtain ⟨hstatus, hcmd, hinhib⟩ := offset_of_globalReg h
    exact ⟨fun e => BitVec.eq_of_toNat_eq (hstatus e), fun e => BitVec.eq_of_toNat_eq (hcmd e),
      fun e => BitVec.eq_of_toNat_eq (hinhib e)⟩
  · unfold chanReg queueReg at h
    split_ifs at h <;> split at h <;> cases h <;> simp

theorem access_cases (r : Reg) :
    r.access = .readOnly ∨ r.access = .config ∨ (r.access = .clearOnWrite ∧ r = .status) ∨
      (r.access = .command ∧ r = .cmd) := by
  cases r <;> simp [Reg.access]

theorem execWr32_effect {a : BitVec 16} {d : Word} {s t : State} (h : execWr32 a d s = .next t) :
    Effect s (.ok (.wr32 a d)) t := by
  unfold execWr32 at h
  split at h
  · cases h; exact .raised _ .buserr
  · split at h
    · rename_i r hr
      obtain ⟨hstatus, hcmd, -⟩ := offset_of_regAt hr
      unfold writeRegister at h
      obtain hacc | hacc | ⟨hacc, e⟩ | ⟨hacc, e⟩ := access_cases r <;> rw [hacc] at h
      · cases h; exact .raised _ .buserr
      · cases h
        unfold hostConfigWrite
        split
        · rename_i hw
          exact .configured a d r hr hw.1 hw.2
        · exact .raised _ .cfgerr
      · cases h
        obtain rfl := hstatus e
        exact .statusCleared d
      · obtain rfl := hcmd e
        change runCommandWord d s = .next t at h
        cases hd : decodeCmd d with
        | none =>
          rw [runCommandWord_of_reserved hd] at h
          cases h
          exact .raised _ .cmderr
        | some c =>
          rw [runCommandWord_of_decodeCmd hd] at h
          exact command_effect c (.inr ⟨d, rfl⟩) h
    · cases h; exact .raised _ .buserr

-- DMA and service

theorem execDmaWr_effect {d : Word} {s t : State} (h : execDmaWr d s = .next t) : Effect s (.ok (.dmaWr d)) t := by
  unfold execDmaWr at h
  split at h <;> cases h
  · exact .completed d _
  · exact .beat d

theorem serviceCompletion_effect {k : EvKind} {s t : State} (h : serviceCompletion k s = .next t) :
    Effect s (.ok (serviceOf k)) t := by
  unfold serviceCompletion at h
  split at h
  · split at h
    · exact .ticked k h
    · cases h; exact .serviced k
  · cases h; exact .idle _

-- Instructions and steps

/-- What an instruction can do. -/
theorem exec_effect {i : Instr} {s t : State} (h : exec i s = .next t) : Effect s (.ok i) t := by
  cases i with
  | nop => exact command_effect .nop (.inl rfl) h
  | start => exact command_effect .start (.inl rfl) h
  | stop => exact command_effect .stop (.inl rfl) h
  | detrst => exact command_effect .detrst (.inl rfl) h
  | qavail q => exact command_effect (.qavail q) (.inl rfl) h
  | qread q => exact command_effect (.qread q) (.inl rfl) h
  | qfree q => exact command_effect (.qfree q) (.inl rfl) h
  | qclear q => exact command_effect (.qclear q) (.inl rfl) h
  | rd32 a => exact execRd32_effect h
  | rd16 a => exact execRd16_effect h
  | rd8 a => cases h; exact .readRefused _
  | wr32 a d => exact execWr32_effect h
  | wr16 a d => cases h; exact .raised _ .buserr
  | wr8 a d => cases h; exact .raised _ .buserr
  | dmaWr d => exact execDmaWr_effect h
  | evHalf => exact serviceCompletion_effect (k := .half) h
  | evFull => exact serviceCompletion_effect (k := .full) h
  | isr => cases h; exact .phase .isr
  | acq => cases h; exact .phase .acq
  | dl => cases h; exact .phase .dl
  | det => exact .phase (detPhase_effect h)
  | mux => cases h; exact .phase .mux
  | qpush => cases h; exact .phase .qpush

/-- What an input can do that is no instruction. -/
theorem rejected_effect {r : Reject} {s t : State} (h : rejected r s = .next t) : Effect s (.error r) t := by
  cases r with
  | reservedCmd => cases h; exact .raised _ .cmderr
  | reservedBus write =>
    cases write <;> cases h
    · exact .readRefused _
    · exact .raised _ .buserr
  | noBeat => cases h; exact .idle _
  | noEvent => cases h; exact .idle _
  | reservedEvt => cases h
  | reservedPhase => cases h
  | powerCycle => cases h; exact .power

/-- What a step can do: nothing, if no input is left, or what its input does. -/
theorem step_effect {s t : State} (h : step s = .next t) :
    t = s ∨ ∃ p rest, s.inputs = p :: rest ∧ Effect { s with inputs := rest } (decode p) t := by
  unfold step nextInput at h
  split at h
  · cases hin : s.inputs with
    | nil =>
      rw [hin] at h
      cases h
      exact .inl rfl
    | cons p rest =>
      rw [hin] at h
      refine .inr ⟨p, rest, rfl, ?_⟩
      cases hp : decode p with
      | ok i =>
        simp only [hp] at h
        exact exec_effect h
      | error r =>
        simp only [hp] at h
        exact rejected_effect h
  · cases h

-- Which input an effect belongs to

/-- Only a power cycle decodes as one. -/
theorem eq_power_of_decode {p : Input} (h : decode p = .error .powerCycle) : p = .power := by
  cases p with
  | power => rfl
  | cmd w => simp only [decode] at h; split at h <;> cases h
  | bus desc data => simp only [decode, decodeBus] at h; split at h <;> cases h
  | dma beat => simp only [decode, decodeDma] at h; split at h <;> cases h
  | evt lines => simp only [decode, decodeEvt] at h; split at h <;> cases h
  | phase code => simp only [decode, decodePhase] at h; split at h <;> cases h

/-- Only a phase code decodes to a phase (R145). -/
theorem eq_phase_of_decode {p : Input} {i : Instr} {s t : State} (h : decode p = .ok i) (hi : PhaseEffect s i t) :
    ∃ code, p = .phase code := by
  cases p with
  | phase code => exact ⟨code, rfl⟩
  | power => cases h
  | cmd w =>
    simp only [decode] at h
    split at h
    · rename_i c _
      cases c <;> cases h <;> cases hi
    · cases h
  | bus desc data => simp only [decode, decodeBus] at h; split at h <;> cases h <;> cases hi
  | dma beat => simp only [decode, decodeDma] at h; split at h <;> cases h; cases hi
  | evt lines => simp only [decode, decodeEvt] at h; split at h <;> cases h <;> cases hi

/-- Only the descriptor of a 4-byte write decodes to one (R148). -/
theorem eq_bus_of_decode {p : Input} {a : BitVec 16} {d : Word} (h : decode p = .ok (.wr32 a d)) :
    p = .bus (busDesc 0b110 a) d := by
  cases p with
  | power => cases h
  | cmd w =>
    simp only [decode] at h
    split at h
    · rename_i c _
      cases c <;> cases h
    · cases h
  | dma beat => simp only [decode, decodeDma] at h; split at h <;> cases h
  | evt lines => simp only [decode, decodeEvt] at h; split at h <;> cases h
  | phase code => simp only [decode, decodePhase] at h; split at h <;> cases h
  | bus desc data =>
    simp only [decode, decodeBus] at h
    split at h <;> cases h
    rename_i h18 h17 h16
    congr 1
    obtain ⟨hlow, b18, b17, b16⟩ := Laws.busDesc_fields 0b110 (desc.extractLsb' 0 16)
    apply BitVec.eq_of_getLsbD_eq
    intro k hk
    by_cases hk16 : k < 16
    · have := congrArg (BitVec.getLsbD · k) hlow
      simpa [BitVec.getLsbD_extractLsb', hk16] using this.symm
    · obtain rfl | rfl | rfl : k = 16 ∨ k = 17 ∨ k = 18 := by omega
      · rw [h16, b16]; rfl
      · rw [h17, b17]; rfl
      · rw [h18, b18]; rfl

end Sys2Proof.Machine
end

section
/-! Register accesses: a performed read answers the register's value and a write reaches the register, each said once
for every mapped offset; then the statements register by register (10_state.md section 2). -/

namespace Sys2Proof.Machine

-- Reads

/-- A 4-byte read of a mapped register answers its value and changes nothing else (R109, R420). -/
theorem readsAs_of_regAt {s : State} {a : BitVec 16} {r : Reg} (hr : regAt s.build a.toNat = some r)
    (halign : a.toNat % 4 = 0) (hlow : a.toNat < 0x4000) : readsAs s a (readReg s r) := by
  change execRd32 a s = _
  unfold execRd32 readRegister
  rw [if_neg (not_not.2 halign), if_pos hlow, hr]
  rfl

/-- A register of 0x000..0x0FC: the offset is a numeral, so alignment is a computation. -/
theorem readsAs_of_globalReg {s : State} {a : BitVec 16} {r : Reg} (hr : globalReg a.toNat = some r)
    (ha : a.toNat % 4 = 0 ∧ a.toNat < 0x100 := by decide) : readsAs s a (readReg s r) :=
  readsAs_of_regAt (by rw [regAt, if_pos ha.2, hr]) ha.1 (by omega)

/-- A bit of a word that lists its bits, lowest first, and is 0 above them. -/
theorem getLsbD_ofBoolListLE_setWidth (bs : List Bool) (k : Nat) (hk : k < 32) :
    ((BitVec.ofBoolListLE bs).setWidth 32).getLsbD k = bs.getD k false := by
  rw [BitVec.getLsbD_setWidth, BitVec.getLsbD_ofBoolListLE]
  simp [hk]

theorem muxFillWord_getLsbD (s : State) {c : Nat} (hc : c < 32) :
    (muxFillWord s).getLsbD c = (decide (c < s.build.N) && (slotAt s.muxIn c).isSome) := by
  rw [muxFillWord, getLsbD_ofBoolListLE_setWidth _ _ hc]
  by_cases hn : c < s.build.N <;> simp [hn]

/-- Settles O22: each offset is a mapped register's, whose value is the one stated; MUXFILL is read bit by bit. -/
theorem globalRegistersReadTheirState : Obligations.GlobalRegistersReadTheirState := by
  intro s
  have hshift : readReg s .shift = BitVec.ofNat 32 s.cfg.shift.toNat := (BitVec.ofNat_toNat 32 s.cfg.shift).symm
  refine ⟨readsAs_of_globalReg (r := .id) rfl, readsAs_of_globalReg (r := .ctrl) rfl,
    readsAs_of_globalReg (r := .cmd) rfl, readsAs_of_globalReg (r := .result) rfl,
    hshift ▸ readsAs_of_globalReg (r := .shift) rfl, readsAs_of_globalReg (r := .thresh) rfl,
    readsAs_of_globalReg (r := .win0) rfl, readsAs_of_globalReg (r := .win1) rfl,
    readsAs_of_globalReg (r := .extr) rfl, readsAs_of_globalReg (r := .inhib) rfl,
    readsAs_of_globalReg (r := .nrep) rfl, readsAs_of_globalReg (r := .delay) rfl,
    readsAs_of_globalReg (r := .sigcount) rfl, readsAs_of_globalReg (r := .wdog) rfl,
    readsAs_of_globalReg (r := .detcnt) rfl, readsAs_of_globalReg (r := .noisecnt) rfl,
    readsAs_of_globalReg (r := .allocfail) rfl, readsAs_of_globalReg (r := .muxdrop) rfl,
    readsAs_of_globalReg (r := .muxpoolfail) rfl, readsAs_of_globalReg (r := .poolfree) rfl,
    readsAs_of_globalReg (r := .dmapos) rfl, readsAs_of_globalReg (r := .dlhead) rfl,
    muxFillWord s, readsAs_of_globalReg (r := .muxfill) rfl, fun c hc => muxFillWord_getLsbD s hc⟩

/-- Settles O24: every bit of STATUS stands in its list of bits, and above bit 12 the list has ended. -/
theorem statusReadsItsBits : Obligations.StatusReadsItsBits := by
  intro s
  have hbit (k : Nat) (hk : k < 32) : (statusWord s).getLsbD k = _ := getLsbD_ofBoolListLE_setWidth _ k hk
  refine ⟨statusWord s, readsAs_of_globalReg (r := .status) rfl, hbit 0 (by decide), fun c => ?_, hbit 10 (by decide),
    hbit 11 (by decide), hbit 12 (by decide), ?_⟩
  · cases c <;> exact hbit _ (by decide)
  · apply BitVec.eq_of_getLsbD_eq
    intro k hk
    rw [BitVec.getLsbD_extractLsb', hbit _ (by omega), List.getD_eq_default _ _ (by simp)]
    simp

-- Writes

/-- A 4-byte write to a mapped register takes that register's access (R423). -/
theorem exec_wr32_of_regAt {s : State} {a : BitVec 16} {r : Reg} (d : Word) (hr : regAt s.build a.toNat = some r)
    (halign : a.toNat % 4 = 0) (hlow : a.toNat < 0x4000) : exec (.wr32 a d) s = writeRegister r d s := by
  change execWr32 a d s = _
  unfold execWr32
  rw [if_neg (by omega), hr]

-- Fields of a register

/-- A field of a word built from a number. -/
theorem toNat_extractLsb'_ofNat (n start len : Nat) (hn : n < 2 ^ 32) :
    ((BitVec.ofNat 32 n).extractLsb' start len).toNat = n / 2 ^ start % 2 ^ len := by
  rw [BitVec.extractLsb'_toNat, BitVec.toNat_ofNat, Nat.mod_eq_of_lt hn, Nat.shiftRight_eq_div_pow]

theorem getLsbD_ofNat_eq (n k : Nat) (hk : k < 32) : (BitVec.ofNat 32 n).getLsbD k = decide (n / 2 ^ k % 2 = 1) := by
  rw [BitVec.getLsbD_ofNat, Nat.testBit_eq_decide_div_mod_eq]
  simp [hk]

theorem extractLsb'_ofNat_eq_zero {n start len : Nat} (hn : n < 2 ^ 32) (h : n / 2 ^ start % 2 ^ len = 0) :
    (BitVec.ofNat 32 n).extractLsb' start len = 0 :=
  BitVec.eq_of_toNat_eq ((toNat_extractLsb'_ofNat n start len hn).trans h)

/-- A write to a read-only register is refused (R40, R425). -/
theorem write_of_readOnly {s : State} {a : BitVec 16} {r : Reg} (d : Word) (hr : globalReg a.toNat = some r)
    (hacc : r.access = .readOnly) (ha : a.toNat % 4 = 0 ∧ a.toNat < 0x100 := by decide) :
    exec (.wr32 a d) s = .next (refuseWrite s) := by
  rw [exec_wr32_of_regAt d (by rw [regAt, if_pos ha.2, hr]) ha.1 (by omega), writeRegister, hacc]

/-- PARAM0 and PARAM1 as sums of fields that do not overlap in a valid build. -/
theorem param0Word_eq (b : Build) :
    param0Word b = BitVec.ofNat 32 (b.L + b.N * 2 ^ 16 + b.MUXED.toNat * 2 ^ 24 +
      (decide (b.POLICY = .centroid)).toNat * 2 ^ 25) := by
  unfold param0Word
  split <;> simp [*]

/-- Settles O23: in a valid build each parameter fits its field, so that every field of the sum is the parameter. -/
theorem parameterRegistersHoldTheBuild : Obligations.ParameterRegistersHoldTheBuild := by
  intro s hvalid
  obtain ⟨-, hL, -, hN, -, hNBLK, -, -, hDCAP, -, hQCAP, -⟩ := (buildValid_iff s.build).mp hvalid
  have hmux := s.build.MUXED.toNat_le
  have hpol := (decide (s.build.POLICY = .centroid)).toNat_le
  refine ⟨param0Word s.build, param1Word s.build, readsAs_of_globalReg (r := .param0) rfl,
    readsAs_of_globalReg (r := .param1) rfl, ?_⟩
  rw [param0Word_eq, param1Word]
  refine ⟨?_, ?_, ?_, ?_, ?_, ?_, ?_, ?_, ?_, ?_⟩
  · rw [toNat_extractLsb'_ofNat] <;> omega
  · rw [toNat_extractLsb'_ofNat] <;> omega
  · exact extractLsb'_ofNat_eq_zero (by omega) (by omega)
  · rw [getLsbD_ofNat_eq _ _ (by decide)]
    cases s.build.MUXED <;> simp <;> omega
  · rw [getLsbD_ofNat_eq _ _ (by decide), decide_eq_decide]
    cases h : decide (s.build.POLICY = .centroid) <;> simp_all <;> omega
  · exact extractLsb'_ofNat_eq_zero (by omega) (by omega)
  · rw [toNat_extractLsb'_ofNat] <;> omega
  · rw [toNat_extractLsb'_ofNat] <;> omega
  · rw [toNat_extractLsb'_ofNat] <;> omega
  · intro a ha d
    rcases List.mem_pair.1 ha with rfl | rfl
    · exact write_of_readOnly (r := .param0) d rfl rfl
    · exact write_of_readOnly (r := .param1) d rfl rfl

-- Channels and queues

/-- Channel c's registers stand at 0x100 + 16c (R57). -/
theorem regAt_chan {b : Build} {c k : Nat} {r : Reg} (hc : c < b.N) (hc16 : c < 16) (hk : k < 16)
    (hr : chanReg c k = some r) : regAt b (BitVec.ofNat 16 (0x100 + k + 0x10 * c)).toNat = some r := by
  have ha : (BitVec.ofNat 16 (0x100 + k + 0x10 * c)).toNat = 0x100 + k + 0x10 * c := by
    rw [BitVec.toNat_ofNat]; omega
  rw [ha, regAt, if_neg (by omega), if_pos (by omega), show (0x100 + k + 0x10 * c - 0x100) / 16 = c by omega,
    show (0x100 + k + 0x10 * c) % 16 = k by omega, if_pos hc, hr]

/-- Queue q's registers stand at 0x200 + 16q (R58). -/
theorem regAt_queue {b : Build} {q k : Nat} (hq : q < b.NQ) (hq16 : q < 16) (hk : k < 16) :
    regAt b (BitVec.ofNat 16 (0x200 + k + 0x10 * q)).toNat = queueReg q k := by
  have ha : (BitVec.ofNat 16 (0x200 + k + 0x10 * q)).toNat = 0x200 + k + 0x10 * q := by
    rw [BitVec.toNat_ofNat]; omega
  rw [ha, regAt, if_neg (by omega), if_neg (by omega), if_pos (by omega),
    show (0x200 + k + 0x10 * q - 0x200) / 16 = q by omega, show (0x200 + k + 0x10 * q) % 16 = k by omega, if_pos hq]

theorem readsAs_chan {s : State} {c k : Nat} {r : Reg} (hc : c < s.build.N) (hc16 : c < 16) (hk : k < 16)
    (halign : k % 4 = 0) (hr : chanReg c k = some r) :
    readsAs s (BitVec.ofNat 16 (0x100 + k + 0x10 * c)) (readReg s r) :=
  readsAs_of_regAt (regAt_chan hc hc16 hk hr) (by rw [BitVec.toNat_ofNat]; omega) (by rw [BitVec.toNat_ofNat]; omega)

theorem readsAs_queue {s : State} {q k : Nat} {r : Reg} (hq : q < s.build.NQ) (hq16 : q < 16) (hk : k < 16)
    (halign : k % 4 = 0) (hr : queueReg q k = some r) :
    readsAs s (BitVec.ofNat 16 (0x200 + k + 0x10 * q)) (readReg s r) :=
  readsAs_of_regAt ((regAt_queue hq hq16 hk).trans hr) (by rw [BitVec.toNat_ofNat]; omega)
    (by rw [BitVec.toNat_ofNat]; omega)

/-- A 4-byte read below the windows that names no register is refused (R117, R425). -/
theorem exec_rd32_of_regAt_none {s : State} {a : BitVec 16} (hr : regAt s.build a.toNat = none)
    (hlow : a.toNat < 0x4000) : exec (.rd32 a) s = .next (refuseRead s) := by
  change execRd32 a s = _
  unfold execRd32 readRegister
  rw [if_pos hlow, hr]
  exact ite_self _

theorem chanAt_of_getElem? {s : State} {c : Nat} {ch : Chan} (h : s.chans[c]? = some ch) : chanAt s c = ch := by
  rw [chanAt, List.getD_eq_getElem?_getD, h, Option.getD_some]

theorem queueAt_of_getElem? {s : State} {q : Nat} {u : Queue} (h : s.queues[q]? = some u) : queueAt s q = u := by
  rw [queueAt, List.getD_eq_getElem?_getD, h, Option.getD_some]

theorem NQ_le_of_buildValid {b : Build} (h : buildValid b = true) : 1 ≤ b.NQ ∧ b.NQ ≤ 16 := by
  obtain ⟨-, -, hN, hN', -⟩ := (buildValid_iff b).mp h
  unfold Build.NQ
  split <;> omega

/-- The model's count in natural numbers is the difference of the indices modulo the ring (R58, R361). -/
theorem queueCount_eq_emod {b : Build} {u : Queue} (htail : u.tail ≤ b.QCAP) :
    (queueCount b u : Int) = ((u.head : Int) - (u.tail : Int)) % ((b.QCAP : Int) + 1) := by
  have hsub : ((u.head + (b.QCAP + 1) - u.tail : Nat) : Int) = (u.head : Int) - u.tail + ((b.QCAP : Int) + 1) := by
    omega
  rw [queueCount, Int.natCast_emod, hsub, Nat.cast_add_one, Int.add_emod_right]

theorem queueCount_le (b : Build) (u : Queue) : queueCount b u ≤ b.QCAP :=
  Nat.le_of_lt_succ (Nat.mod_lt _ (Nat.succ_pos _))

/-- Settles O25: the offsets are those of the channel's and the queue's registers; QAVAIL and QPTR are numbers. -/
theorem channelAndQueueRegistersReadTheirState : Obligations.ChannelAndQueueRegistersReadTheirState := by
  intro s hvalid
  obtain ⟨-, -, -, hN, -, -, -, -, -, -, hQCAP, -⟩ := (buildValid_iff s.build).mp hvalid
  refine ⟨fun c ch hc hch => ?_, fun q u hq hu ⟨_, hhead, htail⟩ => ?_⟩
  · obtain rfl := chanAt_of_getElem? hch
    have hc16 : c < 16 := by omega
    exact ⟨readsAs_chan (k := 0) (r := .nest c) hc hc16 (by decide) rfl rfl,
      readsAs_chan (k := 4) (r := .maxsq c) hc hc16 (by decide) rfl rfl,
      readsAs_chan (k := 8) (r := .avg c) hc hc16 (by decide) rfl rfl,
      readsAs_chan (k := 12) (r := .prev c) hc hc16 (by decide) rfl rfl⟩
  · obtain rfl := queueAt_of_getElem? hu
    have hq16 : q < 16 := hq.trans_le (NQ_le_of_buildValid hvalid).2
    have hcount := queueCount_le s.build (queueAt s q)
    have hborrow := (queueAt s q).borrow.toNat_le
    refine ⟨_, _, readsAs_queue (k := 0) (r := .qavail q) hq hq16 (by decide) rfl rfl, ?_,
      readsAs_queue (k := 4) (r := .qdrop q) hq hq16 (by decide) rfl rfl,
      readsAs_queue (k := 8) (r := .qptr q) hq hq16 (by decide) rfl rfl, ?_, ?_, ?_, ?_, ?_⟩
    · rw [← queueCount_eq_emod htail, readReg, BitVec.toNat_ofNat, Nat.mod_eq_of_lt (by omega)]
    · rw [readReg, qptrWord, toNat_extractLsb'_ofNat] <;> omega
    · rw [readReg, qptrWord, toNat_extractLsb'_ofNat] <;> omega
    · rw [readReg, qptrWord, getLsbD_ofNat_eq _ _ (by decide)]
      cases (queueAt s q).borrow <;> simp <;> omega
    · exact extractLsb'_ofNat_eq_zero (by omega) (by omega)
    · exact exec_rd32_of_regAt_none (regAt_queue (k := 12) hq hq16 (by decide)) (by rw [BitVec.toNat_ofNat]; omega)

-- Configuration writes

/-- A configuration write, by its register (R81, R426). -/
theorem write_of_config {s : State} {a : BitVec 16} {r : Reg} (d : Word) (hr : regAt s.build a.toNat = some r)
    (hacc : r.access = .config) (halign : a.toNat % 4 = 0) (hlow : a.toNat < 0x4000) :
    exec (.wr32 a d) s = .next (hostConfigWrite r d s) := by
  rw [exec_wr32_of_regAt d hr halign hlow, writeRegister, hacc]

theorem hostConfigWrite_of_run {s : State} (r : Reg) (d : Word) (h : s.run = true) :
    hostConfigWrite r d s = raise .cfgerr s :=
  if_neg fun c => by simp [h] at c

theorem hostConfigWrite_of_stopped {s : State} (r : Reg) (d : Word) (h : s.run = false) :
    hostConfigWrite r d s = if legalValue r d = true then writeConfig r d s else raise .cfgerr s := by
  simp [hostConfigWrite, h]

/-- No bit of a mask is set iff every set bit is outside it. -/
theorem and_eq_zero_iff_and_not (d m : Word) : d &&& m = 0 ↔ d &&& ~~~m = d := by
  constructor <;> intro h <;> ext k hk
  all_goals
    have hbit := congrArg (BitVec.getLsbD · k) h
    simpa [BitVec.getLsbD_eq_getElem hk, hk] using hbit

/-- CTRL may hold 0 or 2 (R43): every other bit is reserved. -/
theorem legalValue_ctrl_iff (d : Word) : legalValue .ctrl d = true ↔ d = 0 ∨ d = 2 := by
  rw [legalValue, beq_iff_eq, and_eq_zero_iff_and_not]
  change d &&& BitVec.twoPow 32 1 = d ↔ _
  rw [BitVec.and_twoPow]
  constructor
  · split
    · exact fun h => .inr h.symm
    · exact fun h => .inl h.symm
  · rintro (rfl | rfl) <;> decide

/-- SHIFT is a number below 32 (R44). -/
theorem legalValue_shift_iff (d : Word) : legalValue .shift d = true ↔ d.toNat < 32 := by
  rw [legalValue, beq_iff_eq, and_eq_zero_iff_and_not, ← BitVec.toNat_inj]
  change d.toNat &&& (2 ^ 5 - 1) = d.toNat ↔ _
  rw [Nat.and_two_pow_sub_one_eq_mod]
  omega

/-- A configuration write to a stopped block, when `c` says which values are legal. -/
theorem write_of_stopped {s : State} {a : BitVec 16} {r : Reg} {d : Word} {c : Prop} [Decidable c]
    (hr : globalReg a.toNat = some r) (hacc : r.access = .config) (hrun : s.run = false)
    (hlegal : legalValue r d = true ↔ c) (ha : a.toNat % 4 = 0 ∧ a.toNat < 0x100 := by decide) :
    exec (.wr32 a d) s = if c then .next (writeConfig r d s) else .next (raise .cfgerr s) := by
  rw [write_of_config d (by rw [regAt, if_pos ha.2, hr]) hacc ha.1 (by omega), hostConfigWrite_of_stopped r d hrun]
  simp only [hlegal]
  split <;> rfl

/-- A configuration register of a stopped block that takes every value. -/
theorem write_of_stopped_any {s : State} {a : BitVec 16} {r : Reg} {d : Word} (hr : regAt s.build a.toNat = some r)
    (hacc : r.access = .config) (hrun : s.run = false) (hlegal : legalValue r d = true) (halign : a.toNat % 4 = 0)
    (hlow : a.toNat < 0x4000) : exec (.wr32 a d) s = .next (writeConfig r d s) := by
  rw [write_of_config d hr hacc halign hlow, hostConfigWrite_of_stopped r d hrun, if_pos hlegal]

theorem write_of_running {s : State} {a : BitVec 16} {r : Reg} (d : Word) (hr : regAt s.build a.toNat = some r)
    (hacc : r.access = .config) (hrun : s.run = true) (halign : a.toNat % 4 = 0) (hlow : a.toNat < 0x4000) :
    exec (.wr32 a d) s = .next (raise .cfgerr s) := by
  rw [write_of_config d hr hacc halign hlow, hostConfigWrite_of_run r d hrun]

/-- Settles O29: RUN and the register's legal values decide each write. -/
theorem configWritesNeedStoppedAndLegal : Obligations.ConfigWritesNeedStoppedAndLegal := by
  intro s d
  refine ⟨fun hrun => ⟨fun a ha => ?_, fun c hc hc16 => ?_⟩, fun hrun => ⟨?_, ?_, ?_, ?_, ?_, ?_, ?_, ?_, ?_, ?_⟩⟩
  · have hreg : ∃ r, regAt s.build a.toNat = some r ∧ r.access = .config ∧ a.toNat % 4 = 0 ∧ a.toNat < 0x4000 := by
      fin_cases ha <;> exact ⟨_, rfl, rfl, by decide, by decide⟩
    obtain ⟨r, hr, hacc, halign, hlow⟩ := hreg
    exact write_of_running d hr hacc hrun halign hlow
  · exact write_of_running d (regAt_chan (k := 0) hc hc16 (by decide) rfl) rfl hrun (by rw [BitVec.toNat_ofNat]; omega)
      (by rw [BitVec.toNat_ofNat]; omega)
  · rw [write_of_stopped (r := .ctrl) rfl rfl hrun (legalValue_ctrl_iff d)]
    refine ite_congr rfl (fun hd => ?_) (fun _ => rfl)
    rcases hd with rfl | rfl <;> rfl
  · rw [write_of_stopped (r := .shift) rfl rfl hrun (legalValue_shift_iff d)]
    rfl
  · exact write_of_stopped_any (r := .thresh) rfl rfl hrun rfl (by decide) (by decide)
  · exact write_of_stopped (r := .win0) rfl rfl hrun decide_eq_true_iff
  · exact write_of_stopped (r := .win1) rfl rfl hrun decide_eq_true_iff
  · exact write_of_stopped (r := .extr) rfl rfl hrun decide_eq_true_iff
  · exact write_of_stopped (r := .inhib) rfl rfl hrun decide_eq_true_iff
  · exact write_of_stopped (r := .nrep) rfl rfl hrun decide_eq_true_iff
  · exact write_of_stopped_any (r := .delay) rfl rfl hrun rfl (by decide) (by decide)
  · intro c ch hc hc16 hch
    rw [write_of_stopped_any (regAt_chan (k := 0) hc hc16 (by decide) rfl) rfl hrun rfl
      (by rw [BitVec.toNat_ofNat]; omega) (by rw [BitVec.toNat_ofNat]; omega), writeConfig, setNest,
      chanAt_of_getElem? hch]

/-- Settles O30: the cleared word has each sticky bit that the data word does not name. -/
theorem statusWriteClearsWrittenBits : Obligations.StatusWriteClearsWrittenBits := by
  refine fun s d => ⟨s.err.clearWritten d, ?_, fun c => by cases c <;> rfl⟩
  exact exec_wr32_of_regAt (r := .status) d rfl (by decide) (by decide)

end Sys2Proof.Machine
end

section
/-! Reset and the power cycle (10_state.md R80, 70_reset_and_hazards.md R500): the table and the invariants. -/

namespace Sys2Proof.Machine

/-- The step of a valid build whose next input is a power cycle. -/
theorem step_power {s : State} {rest : List Input} (hvalid : buildValid s.build = true)
    (hin : s.inputs = .power :: rest) : step s = .next (powerCycle { s with inputs := rest }) := by
  simp only [step, if_pos hvalid, nextInput, hin]
  rfl

/-- Settles O49: the table defines the reset state, and a power cycle keeps only what is not the block's. -/
theorem resetGivesTheResetTable : Obligations.ResetGivesTheResetTable := by
  intro b
  refine ⟨rfl, fun c => by cases c <;> rfl, rfl, rfl, rfl, rfl,
    (by decide : (0xFFFFFFFF : Word).toInt = -1), rfl, rfl, rfl, rfl, rfl, rfl, rfl, rfl, rfl,
    rfl, rfl, rfl, rfl, rfl, rfl, rfl, rfl, rfl, rfl, fun s rest hb hvalid hin => ?_⟩
  subst hb
  exact step_power hvalid hin

-- Places without a block

theorem slotAt_noBlocks (n c : Nat) : slotAt (noBlocks n) c = none := by
  rw [slotAt, noBlocks, List.getD_eq_getElem?_getD, List.getElem?_replicate]
  split <;> rfl

theorem count_noBlocks (n : Nat) (h : Handle) : (noBlocks n).count (some h) = 0 := by
  simp [noBlocks, List.count_replicate]

theorem queueCount_empty (b : Build) : queueCount b (Queue.empty b) = 0 := by simp [queueCount, Queue.empty]

theorem queueShaped_empty (b : Build) : QueueShaped b (Queue.empty b) :=
  ⟨List.length_replicate, Nat.zero_le _, Nat.zero_le _⟩

theorem queueFilled_empty (b : Build) : QueueFilled b (Queue.empty b) := by
  have hno : queuedIndices b (Queue.empty b) = [] := by simp [queuedIndices, queueCount_empty]
  refine ⟨fun h => (Bool.false_ne_true h).elim, fun k _ => ?_⟩
  have hslot : slotAt (Queue.empty b).slots k = none := slotAt_noBlocks _ k
  rw [hno, hslot]
  exact iff_of_false Bool.false_ne_true List.not_mem_nil

-- The invariants after reset

theorem shaped_resetOf {b : Build} (h : buildValid b = true) : Shaped (State.resetOf b) := by
  obtain ⟨hL, -, hN, -, -, -, -, hDCAP, -⟩ := (buildValid_iff b).mp h
  have hH : 0 < 2 * b.H := Nat.mul_pos two_pos (Nat.mul_pos hL hN)
  refine ⟨h, List.length_replicate, List.length_replicate, .inl rfl, hH, List.length_replicate, fun r hr => ?_, hDCAP,
    List.length_replicate, List.length_replicate, fun u hu => ?_, List.length_replicate, List.length_replicate,
    List.length_replicate⟩
  · rw [List.eq_of_mem_replicate hr]
    exact List.length_replicate
  · rw [List.eq_of_mem_replicate hu]
    exact queueShaped_empty b

theorem quiet_resetOf (b : Build) : Quiet (State.resetOf b) := ⟨rfl, rfl⟩

theorem queuesFilled_resetOf (b : Build) : QueuesFilled (State.resetOf b) := fun u hu => by
  rw [List.eq_of_mem_replicate hu]
  exact queueFilled_empty b

/-- After reset no place holds a block. -/
theorem eq_none_of_mem_places_resetOf {b : Build} {o : Slot} (h : o ∈ places (State.resetOf b)) : o = none := by
  simp only [places, State.resetOf, noBlocks, Queue.empty, List.map_replicate, List.mem_append, List.mem_flatten] at h
  rcases h with (((h | ⟨r, hr, h⟩) | h) | ⟨r, hr, h⟩) | h
  · exact List.eq_of_mem_replicate h
  · rw [List.eq_of_mem_replicate hr] at h
    exact List.eq_of_mem_replicate h
  · exact List.eq_of_mem_replicate h
  · rw [List.eq_of_mem_replicate hr] at h
    exact List.eq_of_mem_replicate h
  · exact List.eq_of_mem_replicate h

theorem owned_resetOf (b : Build) : Owned (State.resetOf b) := by
  refine ⟨fun o ho h hh => ?_, fun h hh => ?_⟩
  · rw [eq_none_of_mem_places_resetOf ho] at hh
    cases hh
  · rw [List.count_eq_zero.2 fun hm => Option.some_ne_none h (eq_none_of_mem_places_resetOf hm)]
    have hfree : (State.resetOf b).free.getD h false = true := by
      change h < b.NBLK at hh
      simp [State.resetOf, hh]
    rw [if_pos hfree]

theorem blockInvariant_resetOf {b : Build} (h : buildValid b = true) : BlockInvariant (State.resetOf b) :=
  ⟨shaped_resetOf h, quiet_resetOf b, .inl (by simp [State.resetOf, noBlocks]), queuesFilled_resetOf b, owned_resetOf b⟩

theorem legalConfig_resetOf (b : Build) : LegalConfig (State.resetOf b) :=
  (by decide : 1 ≤ (1 : Word).toInt ∧ 1 ≤ (1 : Word).toInt ∧ 0 ≤ (0 : Word).toInt ∧ 0 ≤ (0 : Word).toInt ∧
    0 ≤ (0 : Word).toInt)

theorem statsInRange_zero : -32768 ≤ Chan.zero.prev.toInt ∧ Chan.zero.prev.toInt ≤ 32767 ∧
    Chan.zero.maxsq.toNat ≤ 0xFFFE0001 ∧ Chan.zero.avg.toNat ≤ 0xFFFE0001 := by decide

theorem statsInRange_resetOf (b : Build) : StatsInRange (State.resetOf b) := fun ch hch => by
  rw [List.eq_of_mem_replicate hch]
  exact statsInRange_zero

/-- Settles O50: no place holds a block, every block is free, and every queue is empty. -/
theorem resetMeetsTheInvariants : Obligations.ResetMeetsTheInvariants := fun b h =>
  ⟨blockInvariant_resetOf h, legalConfig_resetOf b, statsInRange_resetOf b, resetOf_mem_wf b⟩

end Sys2Proof.Machine
end

section
/-! What the pool and each stage of the tick can do, case by case: later proofs take these cases apart and do not unfold
the stages again. -/

namespace Sys2Proof.Machine

-- Lists as places

theorem map_getD_range {α : Type} (xs : List α) (d : α) : (List.range xs.length).map (xs.getD · d) = xs := by
  refine List.ext_getElem (by simp) fun k hk hk' => ?_
  simp [List.getD_eq_getElem?_getD, hk']

-- The pool

theorem freeHandles_length (s : State) : (freeHandles s).length = poolFree s := by
  have hpool : poolFree s = ((List.range s.free.length).map (s.free.getD · false)).count true := by
    rw [map_getD_range, poolFree]
  rw [hpool, List.count, List.countP_map, freeHandles, ← List.countP_eq_length_filter]
  exact List.countP_congr fun k _ => by simp

/-- An allocation fails only with no block free (R110). -/
theorem allocBlock_eq_none_iff (s : State) : allocBlock s = none ↔ poolFree s = 0 := by
  rw [← freeHandles_length, List.length_eq_zero_iff]
  unfold allocBlock
  split
  · simp [*]
  · split <;> simp [*]

theorem poolFree_of_allocBlock {s s' : State} {k : Handle} (h : allocBlock s = some (k, s')) :
    poolFree s' + 1 = poolFree s := by
  obtain ⟨hk, hfree, hs'⟩ := allocBlock_spec s s' k h
  rw [List.getD_eq_getElem _ _ hk] at hfree
  have hpos : 0 < s.free.count true := List.count_pos_iff.2 (hfree ▸ List.getElem_mem hk)
  rw [hs', poolFree, poolFree, List.count_set hk, hfree]
  simp
  omega

/-- n allocations with n blocks free give n blocks (R111). -/
theorem allocEach_length {n : Nat} {s : State} (h : n ≤ poolFree s) : (allocEach n s).1.length = n := by
  induction n generalizing s with
  | zero => rfl
  | succ n ih =>
    unfold allocEach
    split
    · rename_i hnone
      rw [allocBlock_eq_none_iff] at hnone
      omega
    · rename_i k s' hsome
      have hpool := poolFree_of_allocBlock hsome
      exact congrArg (· + 1) (ih (by omega))

/-- Every outcome of AllocN(N): too few blocks are free, or as many as asked for are taken (R111). -/
theorem allocN_cases (n : Nat) (s : State) :
    (poolFree s < n ∧ allocN n s = none) ∨
      (n ≤ poolFree s ∧ allocN n s = some (allocEach n s) ∧ (allocEach n s).1.length = n) := by
  by_cases h : poolFree s < n
  · exact .inl ⟨h, if_pos h⟩
  · exact .inr ⟨not_lt.1 h, if_neg h, allocEach_length (not_lt.1 h)⟩

-- The stages

/-- A push is dropped if the ring has no room, and stored otherwise (R360). -/
theorem queuePush_cases (q : Nat) (k : Handle) (s : State) :
    queuePush q k s = dropPush q k s ∨
      nextIndex s.build (queueAt s q).head ≠ (queueAt s q).tail ∧ queuePush q k s = storePush q k s := by
  unfold queuePush
  split
  · exact .inl rfl
  · rename_i hroom
    exact .inr ⟨by simpa [queueFull] using hroom, rfl⟩

/-- A QPUSH phase finds nothing in transit, or takes one block out of it and pushes it (R203, R360). -/
theorem pushPhase_cases (s : State) :
    (pushPhase s = s ∧ ∀ c < s.build.N, slotAt s.flow c = none) ∨
      ∃ c k, c < s.build.N ∧ slotAt s.flow c = some k ∧
        pushPhase s = queuePush (sinkQueue s.build c) k { s with flow := s.flow.set c none } := by
  unfold pushPhase
  split
  · rename_i hnone
    refine .inl ⟨rfl, fun c hc => ?_⟩
    have := List.find?_eq_none.1 hnone c (List.mem_range.2 hc)
    simpa using this
  · rename_i c hsome
    have hc := List.mem_range.1 (List.mem_of_find?_eq_some hsome)
    have hpresent := List.find?_some hsome
    obtain ⟨k, hk⟩ := Option.isSome_iff_exists.1 hpresent
    rw [hk]
    exact .inr ⟨c, k, hc, hk, rfl⟩

/-- The two outcomes of an acquisition allocation (R233, R236). -/
theorem renewCurrent_cases (s : State) :
    renewCurrent s = allocFailed s ∨
      (allocEach s.build.N s).1.length = s.build.N ∧
        renewCurrent s =
          { (allocEach s.build.N s).2 with acqCur := (allocEach s.build.N s).1.map some, acqOff := 0 } := by
  unfold renewCurrent
  obtain ⟨-, he⟩ | ⟨-, he, hlen⟩ := allocN_cases s.build.N s <;> rw [he]
  · exact .inl rfl
  · exact .inr ⟨hlen, rfl⟩

/-- The detector's update writes its registers and hands on or discards what is in transit (R291, R305). -/
theorem detUpdate_cases (s : State) : ∃ k, k = detStep s.cfg s.det (anyDetects s) ∧
    (detUpdate s = detRegisters k s ∨ detUpdate s = discardFlow (detRegisters k s)) := by
  refine ⟨_, rfl, ?_⟩
  simp only [detUpdate]
  split
  · exact .inl rfl
  · exact .inr rfl

/-- The multiplexer takes no block of a channel, or meets an occupied slot, or fills an empty one (R330, R332). -/
theorem muxAccept_cases (s : State) (c : Nat) :
    (slotAt s.flow c = none ∧ muxAccept s c = s) ∨
      ∃ k, slotAt s.flow c = some k ∧
        (muxAccept s c = muxOverrun k s ∨
          slotAt s.muxIn c = none ∧ muxAccept s c = { s with muxIn := s.muxIn.set c (some k) }) := by
  unfold muxAccept
  split
  · exact .inl ⟨‹_›, rfl⟩
  · rename_i k hk
    refine .inr ⟨k, hk, ?_⟩
    split
    · exact .inl rfl
    · rename_i hempty
      exact .inr ⟨Option.not_isSome_iff_eq_none.1 hempty, rfl⟩

/-- A frame waits, or is dropped for lack of blocks, or is emitted into N allocated ones (R330, R333, R335). -/
theorem muxFrame_cases (s : State) :
    muxFrame s = s ∨ muxFrame s = muxPoolFailed s ∨
      muxFrame s = muxEmit (allocEach s.build.N s).1 (allocEach s.build.N s).2 := by
  unfold muxFrame
  split
  · obtain ⟨-, he⟩ | ⟨-, he, -⟩ := allocN_cases s.build.N s <;> rw [he]
    · exact .inr (.inl rfl)
    · exact .inr (.inr rfl)
  · exact .inl rfl

end Sys2Proof.Machine
end

section
/-! What no effect, or only named effects, can change: the configuration in a session, RUN, the detector registers, and
SIGCOUNT above its guard (10_state.md R54, R68, R71, R81). -/

namespace Sys2Proof.Machine

-- Frames of the host's operations and of a beat

theorem beginSession_frame (s : State) :
    beginSession s =
      { s with free := (releaseAll (sessionPlaces s) s).free
               dlSlot := List.replicate s.build.N (noBlocks s.build.DCAP), muxIn := noBlocks s.build.N
               dlHead := 0, run := true, result := 1 } := by
  unfold beginSession
  rw [releaseAll_frame]

theorem borrowOldest_frame (q : Nat) (s : State) :
    borrowOldest q s = { s with result := (borrowOldest q s).result, queues := (borrowOldest q s).queues } := by
  unfold borrowOldest
  split <;> rfl

theorem returnLent_frame (q : Nat) (s : State) :
    returnLent q s =
      { s with result := (returnLent q s).result, queues := (returnLent q s).queues
               free := (returnLent q s).free } := by
  unfold returnLent
  split
  · rfl
  · cases queueOldest (queueAt s q) <;> rfl

theorem drainQueue_frame (q : Nat) (s : State) :
    drainQueue q s =
      { s with result := (drainQueue q s).result, queues := (drainQueue q s).queues
               free := (drainQueue q s).free } := by
  simp only [drainQueue]
  rw [releaseAll_frame]
  rfl

theorem storeBeat_frame (d : Word) (s : State) :
    storeBeat d s = { s with mem := (writeRaw s.dmaPos d s).mem, dmaPos := nextPos s } := by
  simp [storeBeat]

theorem complete_frame (k : EvKind) (s : State) :
    complete k s =
      { s with evPend := (complete k s).evPend, evKind := (complete k s).evKind, err := (complete k s).err } := by
  unfold complete
  split <;> rfl

/-- A configuration write changes the configuration and the detector's channels alone. -/
theorem writeConfig_frame (r : Reg) (d : Word) (s : State) :
    writeConfig r d s = { s with cfg := (writeConfig r d s).cfg, chans := (writeConfig r d s).chans } := by
  cases r <;> rfl

-- The phases

/-- Every phase keeps the build, RUN and the configuration. -/
theorem phase_frame {s t : State} {i : Instr} (h : PhaseEffect s i t) :
    t.build = s.build ∧ t.run = s.run ∧ t.cfg = s.cfg := by
  cases h with
  | isr => rw [isrPhase_frame]; exact ⟨rfl, rfl, rfl⟩
  | acq => rw [acqPhase_frame]; exact ⟨rfl, rfl, rfl⟩
  | dl => rw [dlPhase_frame]; exact ⟨rfl, rfl, rfl⟩
  | discarded => rw [discardFlow_frame]; exact ⟨rfl, rfl, rfl⟩
  | detected => rw [detUpdate_frame]; exact ⟨rfl, rfl, rfl⟩
  | mux => rw [muxPhase_frame]; exact ⟨rfl, rfl, rfl⟩
  | qpush => rw [pushPhase_frame]; exact ⟨rfl, rfl, rfl⟩

theorem tick_frame {s t : State} (h : tick s = .next t) : t.build = s.build ∧ t.run = s.run ∧ t.cfg = s.cfg := by
  refine tick_keeps (P := fun u => u.build = s.build ∧ u.run = s.run ∧ u.cfg = s.cfg) (fun he hu => ?_) id h
    ⟨rfl, rfl, rfl⟩
  obtain ⟨hbuild, hrun, hcfg⟩ := phase_frame he
  exact ⟨hbuild.trans hu.1, hrun.trans hu.2.1, hcfg.trans hu.2.2⟩

/-- Every phase but the detector's update keeps the detector registers (R54). -/
theorem phase_keeps_detector {s t : State} {i : Instr} (h : PhaseEffect s i t) :
    (i = .det ∧ t = detUpdate s) ∨ (t.det = s.det ∧ t.chans = s.chans) := by
  cases h with
  | isr => rw [isrPhase_frame]; exact .inr ⟨rfl, rfl⟩
  | acq => rw [acqPhase_frame]; exact .inr ⟨rfl, rfl⟩
  | dl => rw [dlPhase_frame]; exact .inr ⟨rfl, rfl⟩
  | discarded => rw [discardFlow_frame]; exact .inr ⟨rfl, rfl⟩
  | detected => exact .inl ⟨rfl, rfl⟩
  | mux => rw [muxPhase_frame]; exact .inr ⟨rfl, rfl⟩
  | qpush => rw [pushPhase_frame]; exact .inr ⟨rfl, rfl⟩

/-- The detector's update writes the counters of `detStep` and every channel's registers (R291). -/
theorem detUpdate_registers (s : State) :
    (detUpdate s).det = (detStep s.cfg s.det (anyDetects s)).det ∧
      (detUpdate s).chans =
        (List.range s.build.N).map (chanAfter s (detStep s.cfg s.det (anyDetects s)).active) := by
  have hreg (k : DetStep) : (detRegisters k s).det = k.det ∧
      (detRegisters k s).chans = (List.range s.build.N).map (chanAfter s k.active) := by
    unfold detRegisters raiseMustclose
    split <;> exact ⟨rfl, rfl⟩
  obtain ⟨k, hk, he | he⟩ := detUpdate_cases s <;> rw [he, ← hk]
  · exact hreg k
  · rw [discardFlow_frame]
    exact hreg k

-- The configuration

/-- In a session every effect but a power cycle keeps the configuration (R81). -/
theorem effect_keeps_cfg {s t : State} {x : Except Reject Instr} (h : Effect s x t) (hrun : s.run = true)
    (hx : x ≠ .error .powerCycle) : t.cfg = s.cfg := by
  cases h with
  | configured a d r hreg hstopped => rw [hrun] at hstopped; cases hstopped
  | began => rw [beginSession_frame]
  | borrowed _ q => rw [borrowOldest_frame]
  | returned _ q => rw [returnLent_frame]
  | drained _ q => rw [drainQueue_frame]
  | beat d => rw [storeBeat_frame]
  | completed d k => rw [complete_frame, storeBeat_frame]
  | ticked k ht => exact (tick_frame ht).2.2
  | phase hp => exact (phase_frame hp).2.2
  | power => exact absurd rfl hx
  | _ => rfl

theorem ne_powerCycle_of_nextIsPower {s : State} {p : Input} {rest : List Input} (hin : s.inputs = p :: rest)
    (h : nextIsPower s = false) : decode p ≠ .error .powerCycle := fun hp => by
  rw [eq_power_of_decode hp] at hin
  simp [nextIsPower, hin] at h

/-- Settles O56: in a session the configuration write is refused, and nothing else reaches the configuration. -/
theorem configurationIsFrozenInASession : Obligations.ConfigurationIsFrozenInASession := by
  intro s t hrun hpower hstep
  obtain rfl | ⟨p, rest, hin, he⟩ := step_effect hstep
  · rfl
  · have hkeep := effect_keeps_cfg he hrun (ne_powerCycle_of_nextIsPower hin hpower)
    exact hkeep

-- RUN

/-- Settles O57: the two effects that write RUN belong to instructions that touch it. -/
theorem onlySessionCommandsChangeRun : Obligations.OnlySessionCommandsChangeRun := by
  intro i s t hi hexec
  cases exec_effect hexec with
  | configured a d r => rw [writeConfig_frame]
  | began _ hbegan => rw [hi] at hbegan; cases hbegan
  | ended _ hended => rw [hi] at hended; cases hended
  | borrowed _ q => rw [borrowOldest_frame]
  | returned _ q => rw [returnLent_frame]
  | drained _ q => rw [drainQueue_frame]
  | beat d => rw [storeBeat_frame]
  | completed d k => rw [complete_frame, storeBeat_frame]
  | ticked k ht => exact (tick_frame ht).2.1
  | phase hp => exact (phase_frame hp).2.1
  | _ => rfl

-- The detector registers

/-- Settles O59: the effects that write a detector register belong to the instructions excepted. -/
theorem detectorRegistersKeptByTheRest : Obligations.DetectorRegistersKeptByTheRest := by
  intro i s t hwrite hdetrst hdet hhalf hfull hexec
  cases exec_effect hexec with
  | configured a d r => exact absurd rfl (hwrite a d)
  | began => rw [beginSession_frame]; exact ⟨rfl, rfl⟩
  | detectorReset _ hi =>
    obtain rfl | ⟨a, d, rfl⟩ := hi
    · exact absurd rfl hdetrst
    · exact absurd rfl (hwrite a d)
  | borrowed _ q => rw [borrowOldest_frame]; exact ⟨rfl, rfl⟩
  | returned _ q => rw [returnLent_frame]; exact ⟨rfl, rfl⟩
  | drained _ q => rw [drainQueue_frame]; exact ⟨rfl, rfl⟩
  | beat d => rw [storeBeat_frame]; exact ⟨rfl, rfl⟩
  | completed d k => rw [complete_frame, storeBeat_frame]; exact ⟨rfl, rfl⟩
  | ticked k ht =>
    cases k
    · exact absurd rfl hhalf
    · exact absurd rfl hfull
  | phase hp => exact (phase_keeps_detector hp).resolve_left fun h => hdet h.1
  | _ => exact ⟨rfl, rfl⟩

-- SIGCOUNT

/-- SIGCOUNT is at or above the guard window's end (R71). -/
def AboveGuard (s : State) : Prop := -s.cfg.inhib.toInt ≤ s.det.sigcount.toInt

/-- A write to another configuration register keeps INHIB and the global detector registers. -/
theorem writeConfig_keeps_inhib {r : Reg} (hr : r ≠ .inhib) (d : Word) (s : State) :
    (writeConfig r d s).cfg.inhib = s.cfg.inhib ∧ (writeConfig r d s).det = s.det := by
  cases r with
  | inhib => exact absurd rfl hr
  | _ => exact ⟨rfl, rfl⟩

/-- The value that R300 gives SIGCOUNT fits its register. -/
theorem detStep_sigcount (cfg : Cfg) (d : Det) (detected : Bool) (hinhib : 0 ≤ cfg.inhib.toInt) :
    (detStep cfg d detected).det.sigcount.toInt = decayed cfg (rearmed cfg d detected) := by
  have hlow := BitVec.le_toInt (rearmed cfg d detected).sigcount
  have hhigh := BitVec.toInt_lt (x := (rearmed cfg d detected).sigcount)
  have hinhib' := BitVec.toInt_lt (x := cfg.inhib)
  have hfits : -2 ^ (32 - 1) ≤ decayed cfg (rearmed cfg d detected) ∧
      decayed cfg (rearmed cfg d detected) < 2 ^ (32 - 1) := by
    unfold decayed
    omega
  exact BitVec.toInt_ofInt_eq_self (by decide) hfits.1 hfits.2

theorem detUpdate_aboveGuard {s : State} (hcfg : LegalConfig s) : AboveGuard (detUpdate s) := by
  have hframe := (phase_frame (s := s) .detected).2.2
  rw [AboveGuard, (detUpdate_registers s).1, hframe, detStep_sigcount _ _ _ hcfg.2.2.2.1]
  exact le_max_right _ _

/-- What DETRST stores in SIGCOUNT is -INHIB (R403). -/
theorem toInt_neg_of_nonneg {w : Word} (h : 0 ≤ w.toInt) : (-w).toInt = -w.toInt := by
  rw [BitVec.toInt_neg_of_ne_intMin]
  rintro rfl
  exact absurd h (by decide)

theorem phase_keeps_guard {s t : State} {i : Instr} (h : PhaseEffect s i t) (hs : LegalConfig s ∧ AboveGuard s) :
    LegalConfig t ∧ AboveGuard t := by
  obtain ⟨hcfg, hguard⟩ := hs
  have hkeep := (phase_frame h).2.2
  refine ⟨by rw [LegalConfig, hkeep]; exact hcfg, ?_⟩
  obtain ⟨-, rfl⟩ | ⟨hdet, -⟩ := phase_keeps_detector h
  · exact detUpdate_aboveGuard hcfg
  · rw [AboveGuard, hkeep, hdet]
    exact hguard

/-- Every effect but a write to INHIB keeps SIGCOUNT at or above -INHIB (R71). -/
theorem effect_keeps_guard {s t : State} {x : Except Reject Instr} (h : Effect s x t) (hcfg : LegalConfig s)
    (hguard : AboveGuard s) (hx : ∀ d, x ≠ .ok (.wr32 0x030 d)) : AboveGuard t := by
  cases h with
  | configured a d r hreg =>
    have hr : r ≠ .inhib := fun e => hx d (by rw [(offset_of_regAt hreg).2.2 e])
    obtain ⟨hinhib, hdet⟩ := writeConfig_keeps_inhib hr d s
    rw [AboveGuard, hinhib, hdet]
    exact hguard
  | began => rw [beginSession_frame]; exact hguard
  | detectorReset => exact (toInt_neg_of_nonneg hcfg.2.2.2.1).ge
  | borrowed _ q => rw [borrowOldest_frame]; exact hguard
  | returned _ q => rw [returnLent_frame]; exact hguard
  | drained _ q => rw [drainQueue_frame]; exact hguard
  | beat d => rw [storeBeat_frame]; exact hguard
  | completed d k => rw [complete_frame, storeBeat_frame]; exact hguard
  | ticked k ht => exact (tick_keeps phase_keeps_guard id ht ⟨hcfg, hguard⟩).2
  | phase hp => exact (phase_keeps_guard hp ⟨hcfg, hguard⟩).2
  | power => exact (by decide : -(0 : Word).toInt ≤ (0 : Word).toInt)
  | _ => exact hguard

/-- The next input is no write to an offset, and so no write instruction decodes from it. -/
theorem ne_write_of_nextWrites {s : State} {p : Input} {rest : List Input} {a : BitVec 16}
    (hin : s.inputs = p :: rest) (h : nextWrites a s = false) (d : Word) : decode p ≠ .ok (.wr32 a d) := fun hp => by
  rw [eq_bus_of_decode hp] at hin
  simp [nextWrites, hin] at h

/-- Settles O55: the detector clamps SIGCOUNT at -INHIB, and DETRST stores it. -/
theorem stepKeepsSigcountAboveGuard : Obligations.StepKeepsSigcountAboveGuard := by
  intro s t hcfg hguard hwrites hstep
  obtain rfl | ⟨p, rest, hin, he⟩ := step_effect hstep
  · exact hguard
  · exact effect_keeps_guard he hcfg hguard (ne_write_of_nextWrites hin hwrites)

end Sys2Proof.Machine
end

section
/-! A sticky STATUS bit stays set until the host clears it or the block is reset (10_state.md R69, R451). -/

namespace Sys2Proof.Machine

/-- Raising an error sets its bit and keeps every other. -/
theorem Errors.get_set (e : Errors) (c c' : Cause) : (e.set c').get c = (e.get c || decide (c = c')) := by
  cases c' <;> cases c <;> simp [Errors.set, Errors.get]

/-- The sticky bit of a cause is set. -/
def Sticky (c : Cause) (s : State) : Prop := s.err.get c = true

theorem raise_sticky {c : Cause} (c' : Cause) {s : State} (h : Sticky c s) : Sticky c (raise c' s) := by
  rw [Sticky, raise_err, Errors.get_set, h, Bool.true_or]

theorem releaseAll_sticky {c : Cause} (os : List Slot) {s : State} (h : Sticky c s) : Sticky c (releaseAll os s) := by
  rw [releaseAll_frame]
  exact h

theorem queuePush_sticky {c : Cause} (q : Nat) (k : Handle) {s : State} (h : Sticky c s) :
    Sticky c (queuePush q k s) := by
  obtain he | ⟨-, he⟩ := queuePush_cases q k s <;> rw [he]
  · exact raise_sticky .qfull h
  · exact h

theorem renewCurrent_sticky {c : Cause} {s : State} (h : Sticky c s) : Sticky c (renewCurrent s) := by
  obtain he | ⟨-, he⟩ := renewCurrent_cases s <;> rw [he]
  · exact raise_sticky .poolfail h
  · rw [allocEach_frame]
    exact h

theorem detUpdate_sticky {c : Cause} {s : State} (h : Sticky c s) : Sticky c (detUpdate s) := by
  have hreg (k : DetStep) : Sticky c (detRegisters k s) := by
    unfold detRegisters raiseMustclose
    split
    · exact raise_sticky .mustclose h
    · exact h
  obtain ⟨k, -, he | he⟩ := detUpdate_cases s <;> rw [he]
  · exact hreg k
  · rw [discardFlow_frame]
    exact hreg k

theorem muxAccept_sticky {c : Cause} {s : State} (i : Nat) (h : Sticky c s) : Sticky c (muxAccept s i) := by
  obtain ⟨-, he⟩ | ⟨k, -, he | ⟨-, he⟩⟩ := muxAccept_cases s i <;> rw [he]
  · exact h
  · exact raise_sticky .muxovr h
  · exact h

theorem muxEmit_sticky {c : Cause} (os : List Handle) {s : State} (h : Sticky c s) : Sticky c (muxEmit os s) := by
  unfold muxEmit
  rw [muxEmpty_frame]
  refine List.foldlRecOn (motive := Sticky c) os _ ?_ fun u hu k _ => queuePush_sticky 0 k hu
  rw [muxWrite_frame]
  exact h

theorem muxFrame_sticky {c : Cause} {s : State} (h : Sticky c s) : Sticky c (muxFrame s) := by
  obtain he | he | he := muxFrame_cases s <;> rw [he]
  · exact h
  · exact raise_sticky .muxpool (releaseAll_sticky _ h)
  · refine muxEmit_sticky _ ?_
    rw [allocEach_frame]
    exact h

theorem phase_sticky {c : Cause} {s t : State} {i : Instr} (he : PhaseEffect s i t) (h : Sticky c s) : Sticky c t := by
  cases he with
  | isr => rw [isrPhase_frame]; exact h
  | acq =>
    unfold acqPhase
    split_ifs
    · exact renewCurrent_sticky h
    · exact renewCurrent_sticky h
    · exact h
  | dl => rw [dlPhase_frame]; exact h
  | discarded => rw [discardFlow_frame]; exact h
  | detected => exact detUpdate_sticky h
  | mux =>
    unfold muxPhase
    split
    · exact muxFrame_sticky
        (List.foldlRecOn (motive := Sticky c) _ _ h fun u hu k _ => muxAccept_sticky k hu)
    · exact h
  | qpush =>
    obtain ⟨he, -⟩ | ⟨i, k, -, -, he⟩ := pushPhase_cases s <;> rw [he]
    · exact h
    · exact queuePush_sticky _ k h

/-- Every effect but a write to STATUS and a power cycle keeps a sticky bit set. -/
theorem effect_sticky {c : Cause} {s t : State} {x : Except Reject Instr} (he : Effect s x t) (h : Sticky c s)
    (hpower : x ≠ .error .powerCycle) (hx : ∀ d, x ≠ .ok (.wr32 0x010 d)) : Sticky c t := by
  cases he with
  | raised _ c' => exact raise_sticky c' h
  | readRefused => exact raise_sticky .buserr h
  | statusCleared d => exact absurd rfl (hx d)
  | configured a d r => rw [writeConfig_frame]; exact h
  | began => rw [beginSession_frame]; exact h
  | borrowed _ q => rw [borrowOldest_frame]; exact h
  | returned _ q => rw [returnLent_frame]; exact h
  | drained _ q => rw [drainQueue_frame]; exact h
  | beat d => rw [storeBeat_frame]; exact h
  | completed d k =>
    rw [storeBeat_frame]
    unfold complete
    split
    · exact raise_sticky .dmaovr h
    · exact h
  | ticked k ht => exact tick_keeps (P := Sticky c) phase_sticky id ht h
  | phase hp => exact phase_sticky hp h
  | power => exact absurd rfl hpower
  | _ => exact h

/-- Settles O58: every other effect only raises bits. -/
theorem stickyBitsStayUntilCleared : Obligations.StickyBitsStayUntilCleared := by
  intro s t c h hwrites hpower hstep
  obtain rfl | ⟨p, rest, hin, he⟩ := step_effect hstep
  · exact h
  · exact effect_sticky he h (ne_powerCycle_of_nextIsPower hin hpower) (ne_write_of_nextWrites hin hwrites)

end Sys2Proof.Machine
end

section
/-! Every step keeps the list of written bytes strictly rising in address (log 13). -/

namespace Sys2Proof.Machine

/-- The list of written bytes is in its canonical form. -/
def MemoryFormed (s : State) : Prop := Memory.wf s.mem = true

theorem demuxChannel_formed {s : State} (c : Nat) (h : MemoryFormed s) : MemoryFormed (demuxChannel s c) := by
  unfold demuxChannel
  split
  · exact h
  · exact List.foldlRecOn (motive := MemoryFormed) _ _ h fun u hu i _ => writeSample_wf _ _ _ u hu

theorem muxWriteBlock_formed {s : State} (bh : Handle × Nat) (h : MemoryFormed s) : MemoryFormed (muxWriteBlock s bh) :=
  List.foldlRecOn (motive := MemoryFormed) _ _ h fun u hu _ _ => writeSample_wf _ _ _ u hu

theorem muxEmit_formed (os : List Handle) {s : State} (h : MemoryFormed s) : MemoryFormed (muxEmit os s) := by
  unfold muxEmit
  rw [muxEmpty_frame, pushEach_frame]
  exact List.foldlRecOn (motive := MemoryFormed) _ _ h fun u hu bh _ => muxWriteBlock_formed bh hu

theorem muxFrame_formed {s : State} (h : MemoryFormed s) : MemoryFormed (muxFrame s) := by
  obtain he | he | he := muxFrame_cases s <;> rw [he]
  · exact h
  · rw [muxPoolFailed, muxEmpty_frame]
    exact h
  · refine muxEmit_formed _ ?_
    rw [allocEach_frame]
    exact h

theorem phase_formed {s t : State} {i : Instr} (he : PhaseEffect s i t) (h : MemoryFormed s) : MemoryFormed t := by
  cases he with
  | isr =>
    unfold isrPhase
    split
    · exact List.foldlRecOn (motive := MemoryFormed) _ _ h fun u hu c _ => demuxChannel_formed c hu
    · exact h
  | acq => rw [acqPhase_frame]; exact h
  | dl => rw [dlPhase_frame]; exact h
  | discarded => rw [discardFlow_frame]; exact h
  | detected => rw [detUpdate_frame]; exact h
  | mux =>
    unfold muxPhase
    split
    · refine muxFrame_formed ?_
      rw [muxAcceptAll_frame]
      exact h
    · exact h
  | qpush => rw [pushPhase_frame]; exact h

theorem effect_formed {s t : State} {x : Except Reject Instr} (he : Effect s x t) (h : MemoryFormed s) :
    MemoryFormed t := by
  cases he with
  | configured a d r => rw [writeConfig_frame]; exact h
  | began => rw [beginSession_frame]; exact h
  | borrowed _ q => rw [borrowOldest_frame]; exact h
  | returned _ q => rw [returnLent_frame]; exact h
  | drained _ q => rw [drainQueue_frame]; exact h
  | beat d => rw [storeBeat_frame]; exact writeRaw_wf _ _ s h
  | completed d k => rw [complete_frame, storeBeat_frame]; exact writeRaw_wf _ _ s h
  | ticked k ht => exact tick_keeps phase_formed id ht h
  | phase hp => exact phase_formed hp h
  | power => rfl
  | _ => exact h

/-- Settles O53: only a beat, the demultiplexer and the multiplexer write bytes, each by `memWrite`. -/
theorem stepKeepsMemoryForm : Obligations.StepKeepsMemoryForm := by
  intro s t h hstep
  obtain rfl | ⟨p, rest, hin, he⟩ := step_effect hstep
  · exact h
  · exact effect_formed he h

end Sys2Proof.Machine
end

section
/-! Every step keeps the configuration legal and the statistics registers in their ranges (10_state.md R46-R50, R57,
43_detector.md R294). -/

namespace Sys2Proof.Machine

-- The configuration

theorem writeConfig_legal {r : Reg} {d : Word} {s : State} (hlegal : legalValue r d = true) (h : LegalConfig s) :
    LegalConfig (writeConfig r d s) := by
  obtain ⟨hwin0, hwin1, hextr, hinhib, hnrep⟩ := h
  cases r with
  | win0 => exact ⟨of_decide_eq_true hlegal, hwin1, hextr, hinhib, hnrep⟩
  | win1 => exact ⟨hwin0, of_decide_eq_true hlegal, hextr, hinhib, hnrep⟩
  | extr => exact ⟨hwin0, hwin1, of_decide_eq_true hlegal, hinhib, hnrep⟩
  | inhib => exact ⟨hwin0, hwin1, hextr, of_decide_eq_true hlegal, hnrep⟩
  | nrep => exact ⟨hwin0, hwin1, hextr, hinhib, of_decide_eq_true hlegal⟩
  | _ => exact ⟨hwin0, hwin1, hextr, hinhib, hnrep⟩

-- The statistics of one channel

/-- The statistics registers of a channel are in their ranges (R57, R294). -/
def ChanInRange (ch : Chan) : Prop :=
  -32768 ≤ ch.prev.toInt ∧ ch.prev.toInt ≤ 32767 ∧ ch.maxsq.toNat ≤ 0xFFFE0001 ∧ ch.avg.toNat ≤ 0xFFFE0001

/-- What the loop of R293 keeps over n samples. -/
def StatAcc.Bounded (n : Nat) (a : StatAcc) : Prop :=
  -32768 ≤ a.prev ∧ a.prev ≤ 32767 ∧ a.mx ≤ 0xFFFE0001 ∧ a.sum ≤ n * 0xFFFE0001

theorem sample_toInt_range (x : Sample) : -32768 ≤ x.toInt ∧ x.toInt ≤ 32767 := by
  have hlow := BitVec.le_toInt x
  have hhigh := BitVec.toInt_lt (x := x)
  omega

/-- The squared difference of two samples (R294). -/
theorem squaredDiff_le {x y : Int} (hx : -32768 ≤ x ∧ x ≤ 32767) (hy : -32768 ≤ y ∧ y ≤ 32767) :
    ((x - y) * (x - y)).toNat ≤ 0xFFFE0001 := by
  have habs : |x - y| ≤ 65535 := abs_le.2 ⟨by omega, by omega⟩
  have hsq : (x - y) * (x - y) ≤ 65535 * 65535 := by
    rw [← abs_mul_abs_self]
    exact mul_le_mul habs habs (abs_nonneg _) (by decide)
  omega

theorem statSample_bounded {n : Nat} {a : StatAcc} (x : Sample) (h : a.Bounded n) :
    (statSample a x).Bounded (n + 1) := by
  obtain ⟨hlow, hhigh, hmx, hsum⟩ := h
  have hx := sample_toInt_range x
  have he := squaredDiff_le hx ⟨hlow, hhigh⟩
  refine ⟨hx.1, hx.2, max_le hmx he, ?_⟩
  simp only [statSample]
  omega

theorem foldl_statSample_bounded {n : Nat} {a : StatAcc} (xs : List Sample) (h : a.Bounded n) :
    (xs.foldl statSample a).Bounded (n + xs.length) := by
  induction xs generalizing n a with
  | nil => exact h
  | cons x xs ih =>
    rw [List.foldl_cons, List.length_cons, Nat.add_comm xs.length, ← Nat.add_assoc]
    exact ih (statSample_bounded x h)

theorem blockStats_inRange {xs : List Sample} {ch : Chan} (h : ChanInRange ch) :
    ChanInRange (blockStats xs.length xs ch) := by
  have hstart : ({ prev := ch.prev.toInt, mx := 0, sum := 0 } : StatAcc).Bounded 0 :=
    ⟨h.1, h.2.1, Nat.zero_le _, Nat.zero_le _⟩
  obtain ⟨hlow, hhigh, hmx, hsum⟩ := foldl_statSample_bounded xs hstart
  rw [Nat.zero_add] at hsum
  have havg := Nat.div_le_of_le_mul hsum
  have hprev {x : Int} (hx : -32768 ≤ x ∧ x ≤ 32767) : (BitVec.ofInt 32 x).toInt = x :=
    BitVec.toInt_ofInt_eq_self (by decide) (by omega) (by omega)
  refine ⟨?_, ?_, ?_, ?_⟩ <;> simp only [blockStats]
  · rw [hprev ⟨hlow, hhigh⟩]; exact hlow
  · rw [hprev ⟨hlow, hhigh⟩]; exact hhigh
  · rw [BitVec.toNat_ofNat]; exact (Nat.mod_le _ _).trans hmx
  · rw [BitVec.toNat_ofNat]; exact (Nat.mod_le _ _).trans havg

-- The state

theorem chanAt_inRange {s : State} (h : StatsInRange s) (c : Nat) : ChanInRange (chanAt s c) := by
  rw [chanAt, List.getD_eq_getElem?_getD]
  cases hc : s.chans[c]? with
  | none => exact statsInRange_zero
  | some ch => exact h ch (List.mem_of_getElem? hc)

theorem chanAfter_inRange {s : State} (h : StatsInRange s) (active : Bool) (c : Nat) :
    ChanInRange (chanAfter s active c) := by
  have hchan := chanAt_inRange h c
  unfold chanAfter chanStats
  split
  · exact hchan
  · rename_i k hk
    have hlen : (blockSamples s k).length = s.build.L := by simp [blockSamples]
    have hstats := blockStats_inRange (xs := blockSamples s k) hchan
    rw [hlen] at hstats
    exact hstats

theorem detUpdate_stats {s : State} (h : StatsInRange s) : StatsInRange (detUpdate s) := by
  rw [StatsInRange, (detUpdate_registers s).2]
  exact List.forall_mem_map.2 fun c _ => chanAfter_inRange h _ c

theorem writeConfig_stats {r : Reg} {d : Word} {s : State} (h : StatsInRange s) : StatsInRange (writeConfig r d s) := by
  cases r with
  | nest c =>
    intro ch hch
    rcases List.mem_or_eq_of_mem_set hch with hold | rfl
    · exact h ch hold
    · exact chanAt_inRange h c
  | _ => exact h

/-- The configuration is legal and the statistics are in their ranges. -/
def InRange (s : State) : Prop := LegalConfig s ∧ StatsInRange s

theorem phase_inRange {s t : State} {i : Instr} (he : PhaseEffect s i t) (h : InRange s) : InRange t := by
  refine ⟨by rw [LegalConfig, (phase_frame he).2.2]; exact h.1, ?_⟩
  obtain ⟨-, rfl⟩ | ⟨-, hchans⟩ := phase_keeps_detector he
  · exact detUpdate_stats h.2
  · rw [StatsInRange, hchans]
    exact h.2

theorem effect_inRange {s t : State} {x : Except Reject Instr} (he : Effect s x t) (h : InRange s) : InRange t := by
  cases he with
  | configured a d r hreg hrun hlegal => exact ⟨writeConfig_legal hlegal h.1, writeConfig_stats h.2⟩
  | began => rw [beginSession_frame]; exact h
  | detectorReset =>
    refine ⟨h.1, fun ch hch => ?_⟩
    rw [List.eq_of_mem_replicate hch]
    exact statsInRange_zero
  | borrowed _ q => rw [borrowOldest_frame]; exact h
  | returned _ q => rw [returnLent_frame]; exact h
  | drained _ q => rw [drainQueue_frame]; exact h
  | beat d => rw [storeBeat_frame]; exact h
  | completed d k => rw [complete_frame, storeBeat_frame]; exact h
  | ticked k ht => exact tick_keeps phase_inRange id ht h
  | phase hp => exact phase_inRange hp h
  | power => exact ⟨legalConfig_resetOf s.build, statsInRange_resetOf s.build⟩
  | _ => exact h

/-- Settles O52: configuration writes are legal, and only the detector's loop writes statistics. -/
theorem stepKeepsRegisterRanges : Obligations.StepKeepsRegisterRanges := by
  intro s t _ hlegal hstats hstep
  obtain rfl | ⟨p, rest, hin, he⟩ := step_effect hstep
  · exact ⟨hlegal, hstats⟩
  · exact effect_inRange he ⟨hlegal, hstats⟩

end Sys2Proof.Machine
end

section
/-! Every step keeps the size and range of every element of state (10_state.md R57-R67): operation by operation. -/

namespace Sys2Proof.Machine

-- The elements of a shaped state, by name

theorem acqCur_length {s : State} (h : Shaped s) : s.acqCur.length = s.build.N := by
  obtain ⟨-, -, hcur, -⟩ := h
  exact hcur

theorem dlSlot_length {s : State} (h : Shaped s) : s.dlSlot.length = s.build.N := by
  obtain ⟨-, -, -, -, -, hdl, -⟩ := h
  exact hdl

theorem muxIn_length {s : State} (h : Shaped s) : s.muxIn.length = s.build.N := by
  obtain ⟨-, -, -, -, -, -, -, -, hmux, -⟩ := h
  exact hmux

theorem queues_length {s : State} (h : Shaped s) : s.queues.length = s.build.NQ := by
  obtain ⟨-, -, -, -, -, -, -, -, -, hnq, -⟩ := h
  exact hnq

theorem free_length {s : State} (h : Shaped s) : s.free.length = s.build.NBLK := by
  obtain ⟨-, -, -, -, -, -, -, -, -, -, -, hfree, -⟩ := h
  exact hfree

theorem live_length {s : State} (h : Shaped s) : s.live.length = s.build.N := by
  obtain ⟨-, -, -, -, -, -, -, -, -, -, -, -, hlive, -⟩ := h
  exact hlive

theorem flow_length {s : State} (h : Shaped s) : s.flow.length = s.build.N := by
  obtain ⟨-, -, -, -, -, -, -, -, -, -, -, -, -, hflow⟩ := h
  exact hflow

/-- The row of a channel has DCAP slots (R63). -/
theorem dlRow_length {s : State} (h : Shaped s) (c : Nat) : (dlRow s c).length = s.build.DCAP := by
  obtain ⟨-, -, -, -, -, -, hrows, -⟩ := h
  rw [dlRow, List.getD_eq_getElem?_getD]
  cases hc : s.dlSlot[c]? with
  | none => exact List.length_replicate
  | some r => exact hrows r (List.mem_of_getElem? hc)

theorem queueAt_shaped {s : State} (h : Shaped s) (q : Nat) : QueueShaped s.build (queueAt s q) := by
  obtain ⟨-, -, -, -, -, -, -, -, -, -, hqueues, -⟩ := h
  rw [queueAt, List.getD_eq_getElem?_getD]
  cases hq : s.queues[q]? with
  | none => exact queueShaped_empty s.build
  | some u => exact hqueues u (List.mem_of_getElem? hq)

-- The pool

theorem releaseAll_shaped {s : State} (os : List Slot) (h : Shaped s) : Shaped (releaseAll os s) := by
  have hfree := releaseAll_free_length os s
  rw [releaseAll_frame] at hfree ⊢
  simpa only [Shaped, hfree] using h

theorem release_shaped {s : State} (o : Slot) (h : Shaped s) : Shaped (release o s) := releaseAll_shaped [o] h

theorem allocBlock_shaped {s s' : State} {k : Handle} (h : Shaped s) (e : allocBlock s = some (k, s')) : Shaped s' := by
  rw [(allocBlock_spec s s' k e).2.2]
  simpa only [Shaped, List.length_set] using h

theorem allocEach_shaped {s : State} (n : Nat) (h : Shaped s) : Shaped (allocEach n s).2 := by
  induction n generalizing s with
  | zero => exact h
  | succ n ih =>
    unfold allocEach
    split
    · exact h
    · exact ih (allocBlock_shaped h ‹_›)

-- Queues

theorem setQueue_shaped {s : State} (q : Nat) {u : Queue} (hu : QueueShaped s.build u) (h : Shaped s) :
    Shaped (setQueue q u s) := by
  obtain ⟨hvalid, hchans, hcur, hoff, hpos, hdl, hrows, hhead, hmux, hnq, hqueues, hrest⟩ := h
  refine ⟨hvalid, hchans, hcur, hoff, hpos, hdl, hrows, hhead, hmux, List.length_set.trans hnq, fun v hv => ?_, hrest⟩
  rcases List.mem_or_eq_of_mem_set hv with hold | rfl
  · exact hqueues v hold
  · exact hu

theorem nextIndex_le (b : Build) (k : Nat) : nextIndex b k ≤ b.QCAP := Nat.le_of_lt_succ (Nat.mod_lt _ (Nat.succ_pos _))

theorem queuePush_shaped {s : State} (q : Nat) (k : Handle) (h : Shaped s) : Shaped (queuePush q k s) := by
  have hu := queueAt_shaped h q
  obtain he | ⟨-, he⟩ := queuePush_cases q k s <;> rw [he]
  · exact setQueue_shaped q (u := { queueAt s q with drop := _ }) (s := release (some k) s) hu (release_shaped _ h)
  · exact setQueue_shaped q ⟨List.length_set.trans hu.1, nextIndex_le _ _, hu.2.2⟩ h

theorem pushPhase_shaped {s : State} (h : Shaped s) : Shaped (pushPhase s) := by
  obtain ⟨he, -⟩ | ⟨c, k, -, -, he⟩ := pushPhase_cases s <;> rw [he]
  · exact h
  · refine queuePush_shaped _ k ?_
    simpa only [Shaped, Places, List.length_set] using h

theorem borrowOldest_shaped {s : State} (q : Nat) (h : Shaped s) : Shaped (borrowOldest q s) := by
  unfold borrowOldest
  split
  · exact h
  · exact setQueue_shaped q (u := { queueAt s q with borrow := true }) (queueAt_shaped h q) h

theorem returnLent_shaped {s : State} (q : Nat) (h : Shaped s) : Shaped (returnLent q s) := by
  have hu := queueAt_shaped h q
  unfold returnLent
  split
  · exact h
  · refine setQueue_shaped q ?_ (release_shaped _ h)
    rw [release_build]
    exact ⟨List.length_set.trans hu.1, hu.2.1, nextIndex_le _ _⟩

/-- Emptying places keeps their number. -/
theorem length_foldl_set (js : List Nat) (xs : List Slot) :
    (js.foldl (fun xs j => xs.set j none) xs).length = xs.length :=
  List.foldlRecOn (motive := fun ys : List Slot => ys.length = xs.length) js _ rfl
    fun _ h _ _ => List.length_set.trans h

theorem drainQueue_shaped {s : State} (q : Nat) (h : Shaped s) : Shaped (drainQueue q s) := by
  have hframe := congrArg State.build (releaseAll_frame ((queuedIndices s.build (queueAt s q)).map
    (slotAt (queueAt s q).slots)) s)
  refine setQueue_shaped q ?_ (releaseAll_shaped _ h)
  rw [hframe]
  exact ⟨(length_foldl_set _ _).trans (queueAt_shaped h q).1, Nat.zero_le _, Nat.zero_le _⟩

-- Session

theorem beginSession_shaped {s : State} (h : Shaped s) : Shaped (beginSession s) := by
  have hfree := releaseAll_free_length (sessionPlaces s) s
  obtain ⟨hvalid, hchans, hcur, hoff, hpos, -, -, -, -, hnq, hqueues, hpool, hlive, hflow⟩ := h
  obtain ⟨-, -, -, -, -, -, -, hDCAP, -⟩ := (buildValid_iff s.build).mp hvalid
  rw [beginSession_frame]
  refine ⟨hvalid, hchans, hcur, hoff, hpos, List.length_replicate, fun r hr => ?_, hDCAP, List.length_replicate, hnq,
    hqueues, hfree.trans hpool, hlive, hflow⟩
  rw [List.eq_of_mem_replicate hr]
  exact List.length_replicate

-- Phases

theorem setTransit_shaped {s : State} {live flow : List Slot} (hlive : Places s.build.N live)
    (hflow : Places s.build.N flow) (h : Shaped s) : Shaped { s with live := live, flow := flow } := by
  obtain ⟨hvalid, hchans, hcur, hoff, hpos, hdl, hrows, hhead, hmux, hnq, hqueues, hfree, -, -⟩ := h
  exact ⟨hvalid, hchans, hcur, hoff, hpos, hdl, hrows, hhead, hmux, hnq, hqueues, hfree, hlive, hflow⟩

theorem setFlow_shaped {s : State} {flow : List Slot} (hflow : Places s.build.N flow) (h : Shaped s) :
    Shaped { s with flow := flow } :=
  setTransit_shaped (live_length h) hflow h

theorem isrPhase_shaped {s : State} (h : Shaped s) : Shaped (isrPhase s) := by
  obtain ⟨hvalid, hchans, hcur, hoff, hrest⟩ := h
  unfold isrPhase
  split
  · rw [demux_frame]
    exact ⟨hvalid, hchans, hcur, .inr rfl, hrest⟩
  · exact ⟨hvalid, hchans, hcur, hoff, hrest⟩

theorem renewCurrent_shaped {s : State} (h : Shaped s) : Shaped (renewCurrent s) := by
  obtain he | ⟨hlen, he⟩ := renewCurrent_cases s <;> rw [he]
  · exact h
  · have hbuild := congrArg State.build (allocEach_frame s.build.N s)
    obtain ⟨hvalid, hchans, -, -, hrest⟩ := allocEach_shaped s.build.N h
    exact ⟨hvalid, hchans, by rw [Places, List.length_map, hlen, hbuild], .inl rfl, hrest⟩

theorem acqPhase_shaped {s : State} (h : Shaped s) : Shaped (acqPhase s) := by
  have hcur := acqCur_length h
  have hno : Places s.build.N (noBlocks s.build.N) := List.length_replicate
  have hbuild (u : State) : (renewCurrent u).build = u.build := by rw [renewCurrent_frame]
  unfold acqPhase
  split_ifs
  · have hempty : Shaped { s with acqCur := noBlocks s.build.N, acqOff := 0 } := by
      obtain ⟨hvalid, hchans, -, -, hrest⟩ := h
      exact ⟨hvalid, hchans, hno, .inl rfl, hrest⟩
    exact setTransit_shaped (by rw [hbuild]; exact hcur) (by rw [hbuild]; exact hcur) (renewCurrent_shaped hempty)
  · exact setTransit_shaped (by rw [hbuild]; exact hno) (by rw [hbuild]; exact hno) (renewCurrent_shaped h)
  · exact setTransit_shaped hno hno h

theorem dlPhase_shaped {s : State} (h : Shaped s) : Shaped (dlPhase s) := by
  unfold dlPhase
  split
  · exact h
  · have hrow := dlRow_length h
    have hfree := releaseAll_free_length ((List.range s.build.N).map fun c => slotAt (dlRow s c) (dlNextHead s)) s
    obtain ⟨hvalid, hchans, hcur, hoff, hpos, -, -, -, hmux, hnq, hqueues, hpool, hlive, -⟩ := h
    obtain ⟨-, -, -, -, -, -, -, hDCAP, -⟩ := (buildValid_iff s.build).mp hvalid
    simp only
    rw [releaseAll_frame]
    refine ⟨hvalid, hchans, hcur, hoff, hpos, by simp, fun r hr => ?_, Nat.mod_lt _ hDCAP, hmux, hnq, hqueues,
      hfree.trans hpool, hlive, (List.length_map _).trans List.length_range⟩
    obtain ⟨c, -, rfl⟩ := List.mem_map.1 hr
    exact (List.length_set.trans List.length_set).trans (hrow c)

theorem discardFlow_shaped {s : State} (h : Shaped s) : Shaped (discardFlow s) := by
  have hbuild := congrArg State.build (releaseAll_frame s.flow s)
  exact setFlow_shaped (List.length_replicate.trans (congrArg Build.N hbuild.symm)) (releaseAll_shaped s.flow h)

theorem detRegisters_shaped {s : State} (k : DetStep) (h : Shaped s) : Shaped (detRegisters k s) := by
  have hregs : Shaped { s with det := k.det, chans := (List.range s.build.N).map (chanAfter s k.active) } := by
    obtain ⟨hvalid, -, hrest⟩ := h
    exact ⟨hvalid, by simp, hrest⟩
  unfold detRegisters raiseMustclose
  split
  · exact hregs
  · exact hregs

theorem detUpdate_shaped {s : State} (h : Shaped s) : Shaped (detUpdate s) := by
  obtain ⟨k, -, he | he⟩ := detUpdate_cases s <;> rw [he]
  · exact detRegisters_shaped k h
  · exact discardFlow_shaped (detRegisters_shaped k h)

theorem setMuxIn_shaped {s : State} {xs : List Slot} (hxs : Places s.build.N xs) (h : Shaped s) :
    Shaped { s with muxIn := xs } := by
  obtain ⟨hvalid, hchans, hcur, hoff, hpos, hdl, hrows, hhead, -, hrest⟩ := h
  exact ⟨hvalid, hchans, hcur, hoff, hpos, hdl, hrows, hhead, hxs, hrest⟩

theorem muxAccept_shaped {s : State} (c : Nat) (h : Shaped s) : Shaped (muxAccept s c) := by
  obtain ⟨-, he⟩ | ⟨k, -, he | ⟨-, he⟩⟩ := muxAccept_cases s c <;> rw [he]
  · exact h
  · exact release_shaped (some k) h
  · exact setMuxIn_shaped (List.length_set.trans (muxIn_length h)) h

theorem muxAcceptAll_shaped {s : State} (h : Shaped s) : Shaped (muxAcceptAll s) := by
  have hbuild := congrArg State.build (muxAcceptAll_frame s)
  refine setFlow_shaped (List.length_replicate.trans (congrArg Build.N hbuild.symm)) ?_
  exact List.foldlRecOn (motive := Shaped) _ _ h fun u hu c _ => muxAccept_shaped c hu

theorem muxEmpty_shaped {s : State} (h : Shaped s) : Shaped (muxEmpty s) := by
  have hbuild := congrArg State.build (releaseAll_frame s.muxIn s)
  exact setMuxIn_shaped (List.length_replicate.trans (congrArg Build.N hbuild.symm)) (releaseAll_shaped s.muxIn h)

theorem muxEmit_shaped {s : State} (os : List Handle) (h : Shaped s) : Shaped (muxEmit os s) := by
  unfold muxEmit
  refine muxEmpty_shaped (List.foldlRecOn (motive := Shaped) _ _ ?_ fun u hu k _ => queuePush_shaped 0 k hu)
  rw [muxWrite_frame]
  exact h

theorem muxFrame_shaped {s : State} (h : Shaped s) : Shaped (muxFrame s) := by
  obtain he | he | he := muxFrame_cases s <;> rw [he]
  · exact h
  · exact muxEmpty_shaped h
  · exact muxEmit_shaped _ (allocEach_shaped _ h)

theorem phase_shaped {s t : State} {i : Instr} (he : PhaseEffect s i t) (h : Shaped s) : Shaped t := by
  cases he with
  | isr => exact isrPhase_shaped h
  | acq => exact acqPhase_shaped h
  | dl => exact dlPhase_shaped h
  | discarded => exact discardFlow_shaped h
  | detected => exact detUpdate_shaped h
  | mux =>
    unfold muxPhase
    split
    · exact muxFrame_shaped (muxAcceptAll_shaped h)
    · exact h
  | qpush => exact pushPhase_shaped h

theorem endTick_shaped {s : State} (h : Shaped s) : Shaped (endTick s) :=
  setTransit_shaped List.length_replicate List.length_replicate h

-- Effects

theorem writeConfig_shaped {s : State} (r : Reg) (d : Word) (h : Shaped s) : Shaped (writeConfig r d s) := by
  cases r with
  | nest c =>
    obtain ⟨hvalid, hchans, hrest⟩ := h
    exact ⟨hvalid, List.length_set.trans hchans, hrest⟩
  | _ => exact h

theorem storeBeat_shaped {s : State} (d : Word) (h : Shaped s) : Shaped (storeBeat d s) := by
  rw [storeBeat_frame]
  obtain ⟨hvalid, hchans, hcur, hoff, hpos, hrest⟩ := h
  exact ⟨hvalid, hchans, hcur, hoff, Nat.mod_lt _ (Nat.zero_lt_of_lt hpos), hrest⟩

theorem effect_shaped {s t : State} {x : Except Reject Instr} (he : Effect s x t) (h : Shaped s) : Shaped t := by
  cases he with
  | configured a d r => exact writeConfig_shaped r d h
  | began => exact beginSession_shaped h
  | detectorReset =>
    obtain ⟨hvalid, -, hrest⟩ := h
    exact ⟨hvalid, List.length_replicate, hrest⟩
  | borrowed _ q => exact borrowOldest_shaped q h
  | returned _ q => exact returnLent_shaped q h
  | drained _ q => exact drainQueue_shaped q h
  | beat d => exact storeBeat_shaped d h
  | completed d k => rw [complete_frame]; exact storeBeat_shaped d h
  | ticked k ht => exact tick_keeps phase_shaped endTick_shaped ht h
  | phase hp => exact phase_shaped hp h
  | power => exact shaped_resetOf h.1
  | _ => exact h

/-- No effect changes the build (R7, log 1). -/
theorem effect_build {s t : State} {x : Except Reject Instr} (he : Effect s x t) : t.build = s.build := by
  cases he with
  | configured a d r => rw [writeConfig_frame]
  | began => rw [beginSession_frame]
  | borrowed _ q => rw [borrowOldest_frame]
  | returned _ q => rw [returnLent_frame]
  | drained _ q => rw [drainQueue_frame]
  | beat d => rw [storeBeat_frame]
  | completed d k => rw [complete_frame, storeBeat_frame]
  | ticked k ht => exact (tick_frame ht).1
  | phase hp => exact (phase_frame hp).1
  | _ => rfl

/-- Settles O51: the shape is kept effect by effect, and no effect names the build. -/
theorem stepKeepsTheShape : Obligations.StepKeepsTheShape := by
  intro s t h hstep
  obtain rfl | ⟨p, rest, hin, he⟩ := step_effect hstep
  · exact ⟨h, rfl⟩
  · have hbuild := effect_build he
    exact ⟨effect_shaped he h, hbuild⟩

end Sys2Proof.Machine
end

section
/-! The ring of a record queue (10_state.md R66, R72): which indices are queued, without a modulus, and what the queue's
operations do to its filled slots. -/

namespace Sys2Proof.Machine

-- Indices

theorem mod_ring {n i : Nat} (h : i < 2 * n) : i % n = if i < n then i else i - n := by
  split
  · exact Nat.mod_eq_of_lt ‹_›
  · rw [Nat.mod_eq_sub_mod (by omega), Nat.mod_eq_of_lt (by omega)]

theorem nextIndex_eq {b : Build} {k : Nat} (h : k ≤ b.QCAP) : nextIndex b k = if k = b.QCAP then 0 else k + 1 := by
  rw [nextIndex, mod_ring (by omega)]
  split_ifs <;> omega

theorem queueCount_eq {b : Build} {u : Queue} (h : QueueShaped b u) :
    queueCount b u = if u.tail ≤ u.head then u.head - u.tail else u.head + (b.QCAP + 1) - u.tail := by
  obtain ⟨-, hhead, htail⟩ := h
  rw [queueCount, mod_ring (by omega)]
  split_ifs <;> omega

/-- Index k lies between the tail and the head, around the ring. -/
def Queued (u : Queue) (k : Nat) : Prop := (u.tail ≤ k ∧ k < u.head) ∨ (u.head < u.tail ∧ (u.tail ≤ k ∨ k < u.head))

theorem mem_queuedIndices_iff {b : Build} {u : Queue} (h : QueueShaped b u) {k : Nat} (hk : k < b.QCAP + 1) :
    k ∈ queuedIndices b u ↔ Queued u k := by
  have hcount := queueCount_eq h
  obtain ⟨-, hhead, htail⟩ := h
  simp only [queuedIndices, List.mem_map, List.mem_range, Queued]
  constructor
  · rintro ⟨j, hj, rfl⟩
    rw [mod_ring (by split_ifs at hcount <;> omega)]
    split_ifs at hcount ⊢ <;> omega
  · intro hq
    refine ⟨if u.tail ≤ k then k - u.tail else k + (b.QCAP + 1) - u.tail, ?_, ?_⟩
    · split_ifs at hcount ⊢ <;> omega
    · rw [mod_ring (by split_ifs <;> omega)]
      split_ifs <;> omega

/-- R72 without a count: a lent queue is not empty, and the filled slots are the queued ones. -/
theorem queueFilled_iff {b : Build} {u : Queue} (h : QueueShaped b u) :
    QueueFilled b u ↔ (u.borrow = true → u.head ≠ u.tail) ∧
      ∀ k < b.QCAP + 1, (slotAt u.slots k).isSome = true ↔ Queued u k := by
  have hcount := queueCount_eq h
  have hmem (k : Nat) (hk : k < b.QCAP + 1) := mem_queuedIndices_iff h hk
  obtain ⟨-, hhead, htail⟩ := h
  refine and_congr (imp_congr_right fun _ => ?_) (forall₂_congr fun k hk => by rw [hmem k hk])
  split_ifs at hcount <;> omega

-- Slots

theorem slotAt_set (xs : List Slot) (i k : Nat) (v : Slot) :
    slotAt (xs.set i v) k = if k = i ∧ i < xs.length then v else slotAt xs k := by
  simp only [slotAt, List.getD_eq_getElem?_getD, List.getElem?_set]
  split_ifs <;> simp_all

/-- A push into a queue with room finds its slot empty and fills it (R360). -/
theorem queueFilled_store {b : Build} {u : Queue} (hs : QueueShaped b u) (h : QueueFilled b u)
    (hroom : nextIndex b u.head ≠ u.tail) (o : Handle) :
    slotAt u.slots u.head = none ∧
      QueueFilled b { u with slots := u.slots.set u.head (some o), head := nextIndex b u.head } := by
  have hnext := nextIndex_eq hs.2.1
  obtain ⟨hborrow, hslots⟩ := (queueFilled_iff hs).1 h
  obtain ⟨hlen, hhead, htail⟩ := hs
  refine ⟨?_, (queueFilled_iff ?_).2 ⟨fun _ => hroom, fun k hk => ?_⟩⟩
  · have hnot := hslots u.head (by omega)
    unfold Queued at hnot
    rw [← Option.not_isSome_iff_eq_none, hnot]
    omega
  · exact ⟨List.length_set.trans hlen, nextIndex_le _ _, htail⟩
  · have hold := hslots k hk
    unfold Queued at hold ⊢
    simp only [slotAt_set, hlen]
    split_ifs at hnext ⊢ with hki <;> simp only [hold, Option.isSome_some, true_iff] <;> omega

/-- The return of the block at the tail empties its slot (R363). -/
theorem queueFilled_return {b : Build} {u : Queue} (hs : QueueShaped b u) (h : QueueFilled b u)
    (hlent : u.borrow = true) :
    QueueFilled b { u with slots := u.slots.set u.tail none, tail := nextIndex b u.tail, borrow := false } := by
  have hnext := nextIndex_eq hs.2.2
  obtain ⟨hborrow, hslots⟩ := (queueFilled_iff hs).1 h
  have hne := hborrow hlent
  obtain ⟨hlen, hhead, htail⟩ := hs
  refine (queueFilled_iff ?_).2 ⟨nofun, fun k hk => ?_⟩
  · exact ⟨List.length_set.trans hlen, hhead, nextIndex_le _ _⟩
  · have hold := hslots k hk
    unfold Queued at hold ⊢
    simp only [slotAt_set, hlen]
    split_ifs at hnext ⊢ with hki <;> simp only [hold, Option.isSome_none, Bool.false_eq_true, false_iff] <;> omega

/-- A slot after the places `js` have been emptied. -/
theorem slotAt_foldl_set (js : List Nat) (xs : List Slot) (k : Nat) :
    slotAt (js.foldl (fun xs j => xs.set j none) xs) k = if k ∈ js then none else slotAt xs k := by
  induction js generalizing xs with
  | nil => simp
  | cons j js ih =>
    rw [List.foldl_cons, ih, slotAt_set]
    by_cases hk : k = j
    · subst hk
      by_cases hl : k < xs.length
      · simp [hl]
      · simp [hl, slotAt]
    · simp [hk]

/-- The drained queue is empty (R364). -/
theorem queueFilled_drain {b : Build} {u : Queue} (hs : QueueShaped b u) (h : QueueFilled b u) :
    QueueFilled b { slots := (queuedIndices b u).foldl (fun xs j => xs.set j none) u.slots, head := 0, tail := 0,
                    borrow := false, drop := u.drop } := by
  refine (queueFilled_iff ?_).2 ⟨nofun, fun k hk => ?_⟩
  · exact ⟨(length_foldl_set _ _).trans hs.1, Nat.zero_le _, Nat.zero_le _⟩
  · have hold := h.2 k hk
    simp only [slotAt_foldl_set, Queued]
    split_ifs with hmem
    · simp
    · simp [hold, hmem]

theorem queuedIndices_nodup (b : Build) (u : Queue) (hs : QueueShaped b u) : (queuedIndices b u).Nodup := by
  have hle := queueCount_le b u
  obtain ⟨-, hhead, htail⟩ := hs
  refine List.Nodup.map_on (fun i hi j hj hij => ?_) List.nodup_range
  rw [List.mem_range] at hi hj
  rw [mod_ring (by omega), mod_ring (by omega)] at hij
  split_ifs at hij <;> omega

theorem lt_of_mem_queuedIndices {b : Build} {u : Queue} {k : Nat} (h : k ∈ queuedIndices b u) : k < b.QCAP + 1 := by
  obtain ⟨j, -, rfl⟩ := List.mem_map.1 h
  exact Nat.mod_lt _ (Nat.succ_pos _)

end Sys2Proof.Machine
end

section
/-! Ownership (10_state.md R70) as an account: for every block the places that hold it, its free bit, and the hand of
the running step, which holds the blocks taken out of a place and not yet put anywhere, add up to one. Each operation
keeps the account; a step that ends with an empty hand keeps exact ownership. -/

namespace Sys2Proof.Machine

-- Counting places

/-- One place of a list replaced: what it held goes, what it now holds comes. -/
theorem count_set_slot (xs : List Slot) {i : Nat} (hi : i < xs.length) (v : Slot) (h : Handle) :
    (xs.set i v).count (some h) + [slotAt xs i].count (some h) = xs.count (some h) + [v].count (some h) := by
  induction xs generalizing i with
  | nil => exact absurd hi (Nat.not_lt_zero i)
  | cons x xs ih =>
    cases i with
    | zero =>
      simp only [List.set_cons_zero, slotAt, List.getD_cons_zero, List.count_cons, List.count_nil]
      omega
    | succ i =>
      have := ih (Nat.lt_of_succ_lt_succ hi)
      simp only [List.set_cons_succ, slotAt, List.getD_cons_succ, List.count_cons, List.count_nil] at this ⊢
      omega

/-- One list of places replaced. -/
theorem count_flatten_set (xss : List (List Slot)) {i : Nat} (hi : i < xss.length) (ys : List Slot) (h : Handle) :
    (xss.set i ys).flatten.count (some h) + xss[i].count (some h) =
      xss.flatten.count (some h) + ys.count (some h) := by
  induction xss generalizing i with
  | nil => exact absurd hi (Nat.not_lt_zero i)
  | cons xs xss ih =>
    cases i with
    | zero =>
      simp only [List.set_cons_zero, List.getElem_cons_zero, List.flatten_cons, List.count_append]
      omega
    | succ i =>
      have := ih (Nat.lt_of_succ_lt_succ hi)
      simp only [List.set_cons_succ, List.getElem_cons_succ, List.flatten_cons, List.count_append]
      omega

theorem count_places (s : State) (h : Handle) :
    (places s).count (some h) =
      s.acqCur.count (some h) + s.dlSlot.flatten.count (some h) + s.muxIn.count (some h) +
        (s.queues.map Queue.slots).flatten.count (some h) + s.flow.count (some h) := by
  simp only [places, List.count_append]

/-- A queue replaced: the blocks of its old slots go, those of its new slots come. -/
theorem count_places_setQueue {s : State} {q : Nat} (hq : q < s.queues.length) (u : Queue) (h : Handle) :
    (places (setQueue q u s)).count (some h) + (queueAt s q).slots.count (some h) =
      (places s).count (some h) + u.slots.count (some h) := by
  have hset := count_flatten_set (s.queues.map Queue.slots) (i := q) (by simpa using hq) u.slots h
  have hold : (s.queues.map Queue.slots)[q]'(by simpa using hq) = (queueAt s q).slots := by
    rw [List.getElem_map, queueAt, List.getD_eq_getElem _ _ hq]
  rw [hold] at hset
  simp only [count_places, setQueue, List.map_set]
  omega

-- The account

/-- The free bit of a block as a number. -/
def freeBit (s : State) (h : Handle) : Nat := (s.free.getD h false).toNat

/-- Every block of the pool is once in a place, in the hand or free, and no other block is anywhere (R70). -/
def Accounted (hand : List Slot) (s : State) : Prop :=
  ∀ h, (places s).count (some h) + freeBit s h + hand.count (some h) = if h < s.build.NBLK then 1 else 0

/-- With nothing in the hand the account is exact ownership (R70). -/
theorem owned_iff_accounted {s : State} (hlen : s.free.length = s.build.NBLK) : Owned s ↔ Accounted [] s := by
  have hout {h : Handle} (hh : ¬ h < s.build.NBLK) : freeBit s h = 0 := by
    rw [freeBit, List.getD_eq_default _ _ (hlen.trans_le (not_lt.1 hh))]
    rfl
  constructor
  · rintro ⟨hrange, hexact⟩ h
    by_cases hh : h < s.build.NBLK
    · have := hexact h hh
      rw [if_pos hh, List.count_nil, this, freeBit]
      cases s.free.getD h false <;> rfl
    · rw [if_neg hh, List.count_nil, hout hh, List.count_eq_zero.2 fun hm => hh (hrange _ hm h rfl)]
  · intro hacc
    refine ⟨fun o ho h hh => ?_, fun h hh => ?_⟩
    · rw [Option.mem_def] at hh
      subst hh
      by_contra hn
      have := hacc h
      rw [if_neg hn] at this
      have := List.count_pos_iff.2 ho
      omega
    · have := hacc h
      rw [if_pos hh, List.count_nil, freeBit] at this
      cases hf : s.free.getD h false
      · rw [hf, Bool.toNat_false] at this
        rw [if_neg Bool.false_ne_true]
        omega
      · rw [hf, Bool.toNat_true] at this
        rw [if_pos rfl]
        omega

/-- A release sets the free bit of each block it names, if no block is named twice or already free (R112). -/
theorem freeBit_releaseAll {s : State} {os : List Slot} {h : Handle}
    (hone : freeBit s h + os.count (some h) ≤ if h < s.free.length then 1 else 0) :
    freeBit (releaseAll os s) h = freeBit s h + os.count (some h) := by
  have hbit := releaseAll_free_getD os s h
  by_cases hos : some h ∈ os
  · have hpos := List.count_pos_iff.2 hos
    have hlt : h < s.free.length := by
      by_contra hn
      rw [if_neg hn] at hone
      omega
    have hnew : freeBit (releaseAll os s) h = 1 := by
      rw [freeBit, hbit, decide_eq_true ⟨hos, hlt⟩, Bool.or_true, Bool.toNat_true]
    rw [if_pos hlt] at hone
    omega
  · rw [freeBit, hbit, decide_eq_false fun hm => hos hm.1, Bool.or_false, List.count_eq_zero.2 hos, freeBit,
      Nat.add_zero]

/-- The account after blocks `os` have been released, others moved between places and the hand, and no other free bit
changed: what the places and the hand lost is what was released. -/
theorem Accounted.released {s t : State} {os hand hand' : List Slot} (hacc : Accounted hand s)
    (hlen : s.free.length = s.build.NBLK) (hbuild : t.build = s.build) (hfree : t.free = (releaseAll os s).free)
    (hmove : ∀ h, (places t).count (some h) + hand'.count (some h) + os.count (some h) =
      (places s).count (some h) + hand.count (some h)) : Accounted hand' t := by
  intro h
  have hold := hacc h
  have hnew := hmove h
  have hsame : freeBit t h = freeBit (releaseAll os s) h := by rw [freeBit, hfree, freeBit]
  have hbit := freeBit_releaseAll (s := s) (os := os) (h := h) (by rw [hlen]; omega)
  rw [hbuild]
  omega

/-- The account after blocks have moved between places and the hand. -/
theorem Accounted.moved {s t : State} {hand hand' : List Slot} (hacc : Accounted hand s)
    (hbuild : t.build = s.build) (hfree : t.free = s.free)
    (hmove : ∀ h, (places t).count (some h) + hand'.count (some h) = (places s).count (some h) + hand.count (some h)) :
    Accounted hand' t := by
  intro h
  have hold := hacc h
  have hnew := hmove h
  rw [hbuild, freeBit, hfree]
  unfold freeBit at hold
  omega

/-- An allocation takes a free block into the hand (R110). -/
theorem allocBlock_accounted {s s' : State} {k : Handle} {hand : List Slot} (hacc : Accounted hand s)
    (e : allocBlock s = some (k, s')) : Accounted (some k :: hand) s' := by
  obtain ⟨hk, hfree, hs'⟩ := allocBlock_spec s s' k e
  intro h
  have hold := hacc h
  have hplaces : places s' = places s := by rw [hs']; rfl
  have hbuild : s'.build = s.build := by rw [hs']
  have hbit : freeBit s' h + [some k].count (some h) = freeBit s h := by
    rw [freeBit, freeBit, hs', getD_set]
    by_cases hhk : h = k
    · subst hhk
      rw [if_pos ⟨rfl, hk⟩, hfree]
      simp
    · simp [hhk, Ne.symm hhk]
  rw [hplaces, hbuild, ← List.singleton_append, List.count_append]
  omega

theorem allocEach_accounted {s : State} {hand : List Slot} (n : Nat) (hacc : Accounted hand s) :
    Accounted ((allocEach n s).1.map some ++ hand) (allocEach n s).2 := by
  induction n generalizing s hand with
  | zero => exact hacc
  | succ n ih =>
    unfold allocEach
    split
    · exact hacc
    · rename_i k s' e
      intro h
      have := ih (allocBlock_accounted hacc e) h
      rw [List.perm_middle.count_eq] at this
      exact this

end Sys2Proof.Machine
end

section
/-! Ownership, operation by operation: each keeps the shape, the filled queues and the account. -/

namespace Sys2Proof.Machine

/-- What holds within a step: the sizes and ranges, the filled queues, and the account with the given hand. -/
structure Sound (hand : List Slot) (s : State) : Prop where
  shaped : Shaped s
  filled : QueuesFilled s
  accounted : Accounted hand s

-- Queues

theorem queueAt_filled {s : State} (h : QueuesFilled s) (q : Nat) : QueueFilled s.build (queueAt s q) := by
  rw [queueAt, List.getD_eq_getElem?_getD]
  cases hq : s.queues[q]? with
  | none => exact queueFilled_empty s.build
  | some u => exact h u (List.mem_of_getElem? hq)

theorem setQueue_filled {s : State} (q : Nat) {u : Queue} (hu : QueueFilled s.build u) (h : QueuesFilled s) :
    QueuesFilled (setQueue q u s) := fun v hv => by
  rcases List.mem_or_eq_of_mem_set hv with hold | rfl
  · exact h v hold
  · exact hu

/-- A queue replaced by one that holds other blocks, `os` being released: the hand changes by what the slots gain and
lose. -/
theorem Sound.replaceQueue {s : State} {hand hand' os : List Slot} (h : Sound hand s) {q : Nat} (hq : q < s.build.NQ)
    {u : Queue} (hshaped : QueueShaped s.build u) (hfilled : QueueFilled s.build u)
    (hmove : ∀ k, u.slots.count (some k) + hand'.count (some k) + os.count (some k) =
      (queueAt s q).slots.count (some k) + hand.count (some k)) :
    Sound hand' (setQueue q u (releaseAll os s)) := by
  have hbuild := congrArg State.build (releaseAll_frame os s)
  have hlen : q < (releaseAll os s).queues.length := by
    rw [releaseAll_frame]
    exact hq.trans_eq (queues_length h.shaped).symm
  refine ⟨setQueue_shaped q (by rw [hbuild]; exact hshaped) (releaseAll_shaped os h.shaped),
    setQueue_filled q (by rw [hbuild]; exact hfilled) (by rw [releaseAll_frame]; exact h.filled),
    h.accounted.released (os := os) (free_length h.shaped) hbuild rfl fun k => ?_⟩
  have hset := count_places_setQueue hlen u k
  have hplaces : places (releaseAll os s) = places s := by rw [releaseAll_frame]; rfl
  have hat : queueAt (releaseAll os s) q = queueAt s q := by rw [releaseAll_frame]; rfl
  have hk := hmove k
  rw [hplaces, hat] at hset
  omega

/-- The account, the shape and the queues do not look at the sticky bits. -/
theorem raise_sound {s : State} {hand : List Slot} (c : Cause) (h : Sound hand s) : Sound hand (raise c s) :=
  ⟨h.shaped, h.filled, h.accounted⟩

theorem setResult_sound {s : State} {hand : List Slot} (w : Word) (h : Sound hand s) : Sound hand (setResult w s) :=
  ⟨h.shaped, h.filled, h.accounted⟩

/-- One block more in the hand. -/
theorem count_hand_cons (o : Slot) (hand : List Slot) (k : Handle) :
    (o :: hand).count (some k) = [o].count (some k) + hand.count (some k) :=
  List.count_append (l₁ := [o])

theorem count_single_none (k : Handle) : [(none : Slot)].count (some k) = 0 := by simp

/-- A push takes its block from the hand: it is stored, or it is released (R360). -/
theorem queuePush_sound {s : State} {hand : List Slot} {q : Nat} {k : Handle} (hq : q < s.build.NQ)
    (h : Sound (some k :: hand) s) : Sound hand (queuePush q k s) := by
  have hs := queueAt_shaped h.shaped q
  have hf := queueAt_filled h.filled q
  obtain he | ⟨hroom, he⟩ := queuePush_cases q k s <;> rw [he]
  · refine raise_sound .qfull (h.replaceQueue (os := [some k]) hq
      (u := { queueAt s q with drop := (queueAt s q).drop + 1 }) hs hf fun j => ?_)
    have := count_hand_cons (some k) hand j
    simp only
    omega
  · obtain ⟨hempty, hfilled⟩ := queueFilled_store hs hf hroom k
    refine h.replaceQueue (os := []) hq ⟨List.length_set.trans hs.1, nextIndex_le _ _, hs.2.2⟩ hfilled fun j => ?_
    have hset := count_set_slot (queueAt s q).slots ((Nat.lt_succ_of_le hs.2.1).trans_eq hs.1.symm) (some k) j
    rw [hempty, count_single_none] at hset
    have := count_hand_cons (some k) hand j
    simp only [List.count_nil]
    omega

theorem borrowOldest_sound {s : State} {hand : List Slot} {q : Nat} (hq : q < s.build.NQ) (h : Sound hand s) :
    Sound hand (borrowOldest q s) := by
  have hs := queueAt_shaped h.shaped q
  have hf := queueAt_filled h.filled q
  unfold borrowOldest
  split
  · exact setResult_sound _ h
  · rename_i hfree
    rw [not_or] at hfree
    refine setResult_sound _
      (h.replaceQueue (os := []) hq (u := { queueAt s q with borrow := true }) hs ?_ fun j => rfl)
    rw [queueFilled_iff hs] at hf
    exact (queueFilled_iff (u := { queueAt s q with borrow := true }) hs).2 ⟨fun _ => hfree.2, hf.2⟩

theorem returnLent_sound {s : State} {hand : List Slot} {q : Nat} (hq : q < s.build.NQ) (h : Sound hand s) :
    Sound hand (returnLent q s) := by
  have hs := queueAt_shaped h.shaped q
  have hf := queueAt_filled h.filled q
  unfold returnLent
  split
  · exact setResult_sound _ h
  · rename_i hlent
    refine setResult_sound _ (h.replaceQueue (os := [queueOldest (queueAt s q)]) hq
      ⟨List.length_set.trans hs.1, hs.2.1, nextIndex_le _ _⟩ (queueFilled_return hs hf (by simpa using hlent))
      fun j => ?_)
    have hset := count_set_slot (queueAt s q).slots ((Nat.lt_succ_of_le hs.2.2).trans_eq hs.1.symm) none j
    rw [count_single_none] at hset
    simp only [queueOldest]
    omega

/-- Emptying distinct places takes out what they hold. -/
theorem count_foldl_set {js : List Nat} {xs : List Slot} (hnodup : js.Nodup) (hlt : ∀ j ∈ js, j < xs.length)
    (k : Handle) :
    (js.foldl (fun xs j => xs.set j none) xs).count (some k) + (js.map (slotAt xs)).count (some k) =
      xs.count (some k) := by
  induction js generalizing xs with
  | nil => rfl
  | cons j js ih =>
    obtain ⟨hj, hnodup⟩ := List.nodup_cons.1 hnodup
    have hrest := ih (xs := xs.set j none) hnodup fun i hi => by
      rw [List.length_set]
      exact hlt i (List.mem_cons_of_mem _ hi)
    have hmap : js.map (slotAt (xs.set j none)) = js.map (slotAt xs) :=
      List.map_congr_left fun i hi => by rw [slotAt_set, if_neg fun ⟨e, _⟩ => hj (e ▸ hi)]
    have hset := count_set_slot xs (hlt j List.mem_cons_self) none k
    rw [count_single_none] at hset
    rw [List.foldl_cons, List.map_cons, count_hand_cons]
    rw [hmap] at hrest
    omega

theorem drainQueue_sound {s : State} {hand : List Slot} {q : Nat} (hq : q < s.build.NQ) (h : Sound hand s) :
    Sound hand (drainQueue q s) := by
  have hs := queueAt_shaped h.shaped q
  have hf := queueAt_filled h.filled q
  refine setResult_sound _ (h.replaceQueue hq ⟨(length_foldl_set _ _).trans hs.1, Nat.zero_le _, Nat.zero_le _⟩
    (queueFilled_drain hs hf) fun k => ?_)
  have := count_foldl_set (queuedIndices_nodup _ _ hs) (fun j hj => hs.1 ▸ lt_of_mem_queuedIndices hj) k
  simp only
  omega

-- What is in transit

theorem map_slotAt_range {xs : List Slot} {n : Nat} (h : xs.length = n) : (List.range n).map (slotAt xs) = xs := by
  rw [← h]
  exact map_getD_range xs none

/-- Blocks put in transit from the hand, where none was. -/
theorem setFlow_sound {s : State} {flow hand : List Slot} (live : List Slot) (hlive : live.length = s.build.N)
    (hflow : flow.length = s.build.N) (hno : ∀ k, s.flow.count (some k) = 0) (h : Sound (flow ++ hand) s) :
    Sound hand { s with live := live, flow := flow } := by
  refine ⟨setTransit_shaped hlive hflow h.shaped, h.filled, h.accounted.moved rfl rfl fun k => ?_⟩
  have := hno k
  simp only [count_places, List.count_append]
  omega

theorem pushPhase_sound {s : State} {hand : List Slot} (h : Sound hand s) : Sound hand (pushPhase s) := by
  obtain ⟨he, -⟩ | ⟨c, k, hc, hk, he⟩ := pushPhase_cases s <;> rw [he]
  · exact h
  · have hlen := flow_length h.shaped
    refine queuePush_sound ?_ ⟨setFlow_shaped (List.length_set.trans hlen) h.shaped, h.filled,
      h.accounted.moved rfl rfl fun j => ?_⟩
    · change sinkQueue s.build c < s.build.NQ
      unfold sinkQueue Build.NQ
      split
      · exact Nat.one_pos
      · exact hc
    · have hset := count_set_slot s.flow (hc.trans_eq hlen.symm) none j
      rw [hk, count_single_none] at hset
      rw [count_places, count_places, count_hand_cons]
      simp only
      omega

/-- Every block in transit released (R292, R305). -/
theorem discardFlow_sound {s : State} {hand : List Slot} (h : Sound hand s) : Sound hand (discardFlow s) := by
  refine ⟨discardFlow_shaped h.shaped, ?_,
    h.accounted.released (os := s.flow) (free_length h.shaped) ?_ rfl fun k => ?_⟩
  · rw [discardFlow_frame]
    exact h.filled
  · rw [discardFlow_frame]
  · rw [discardFlow_frame, count_places, count_places]
    have hflow : (discardFlow s).flow = noBlocks s.build.N := rfl
    simp only [hflow, count_noBlocks]
    omega

theorem detUpdate_sound {s : State} {hand : List Slot} (h : Sound hand s) : Sound hand (detUpdate s) := by
  have hreg (k : DetStep) : Sound hand (detRegisters k s) := by
    refine ⟨detRegisters_shaped k h.shaped, ?_, ?_⟩
    · rw [detRegisters_frame]
      exact h.filled
    · rw [detRegisters_frame]
      exact h.accounted
  obtain ⟨k, -, he | he⟩ := detUpdate_cases s <;> rw [he]
  · exact hreg k
  · exact discardFlow_sound (hreg k)

end Sys2Proof.Machine
end

section
/-! Ownership through the acquisition source and the delay line (41_acquisition.md R233, 42_delay_line.md R262). -/

namespace Sys2Proof.Machine

-- Acquisition

theorem allocEach_sound {s : State} {hand : List Slot} (n : Nat) (h : Sound hand s) :
    Sound ((allocEach n s).1.map some ++ hand) (allocEach n s).2 := by
  refine ⟨allocEach_shaped n h.shaped, ?_, allocEach_accounted n h.accounted⟩
  rw [allocEach_frame]
  exact h.filled

theorem isrPhase_sound {s : State} {hand : List Slot} (h : Sound hand s) : Sound hand (isrPhase s) := by
  refine ⟨isrPhase_shaped h.shaped, ?_, ?_⟩
  · rw [isrPhase_frame]
    exact h.filled
  · rw [isrPhase_frame]
    exact h.accounted

/-- No place of the list holds a block. -/
def Vacant (xs : List Slot) : Prop := ∀ k, xs.count (some k) = 0

theorem vacant_noBlocks (n : Nat) : Vacant (noBlocks n) := count_noBlocks n

theorem vacant_iff {xs : List Slot} : Vacant xs ↔ xs.all Option.isNone = true := by
  simp only [Vacant, List.count_eq_zero, List.all_eq_true, Option.isNone_iff_eq_none]
  refine ⟨fun h o ho => ?_, fun h k hk => Option.some_ne_none k (h _ hk)⟩
  cases o with
  | none => rfl
  | some k => exact absurd ho (h k)

/-- The current slots, where none holds a block, take the blocks allocated for them, or stay empty (R233, R236). -/
theorem renewCurrent_sound {s : State} {hand : List Slot} (h : Sound hand s) (hno : Vacant s.acqCur) :
    Sound hand (renewCurrent s) ∧ CurrentAllOrNone (renewCurrent s) := by
  have hshaped := renewCurrent_shaped h.shaped
  obtain he | ⟨hlen, he⟩ := renewCurrent_cases s <;> rw [he] at hshaped ⊢
  · exact ⟨⟨hshaped, h.filled, h.accounted⟩, .inl (vacant_iff.1 hno)⟩
  · have ha := allocEach_sound s.build.N h
    have hcur : Vacant (allocEach s.build.N s).2.acqCur := by
      rw [allocEach_frame]
      exact hno
    refine ⟨⟨hshaped, ha.filled, ha.accounted.moved rfl rfl fun k => ?_⟩, .inr (by simp)⟩
    have := hcur k
    simp only [count_places, List.count_append]
    omega

/-- Without a block in the first current slot there is none in any (R60). -/
theorem vacant_of_not_acqHave {s : State} (hshaped : Shaped s) (hall : CurrentAllOrNone s) (h : acqHave s = false) :
    Vacant s.acqCur := by
  refine vacant_iff.2 (hall.resolve_right fun hsome => ?_)
  obtain ⟨-, -, hN, -⟩ := (buildValid_iff s.build).mp hshaped.1
  have hpos : 0 < s.acqCur.length := (acqCur_length hshaped).symm ▸ hN
  have hfirst := List.all_eq_true.1 hsome _ (List.getElem_mem hpos)
  rw [acqHave, List.getD_eq_getElem _ _ hpos, hfirst] at h
  cases h

/-- The acquisition update moves the filled blocks from the current slots into transit (R233). -/
theorem acqPhase_sound {s : State} (h : Sound [] s) (hall : CurrentAllOrNone s) (hquiet : Vacant s.flow) :
    Sound [] (acqPhase s) ∧ CurrentAllOrNone (acqPhase s) := by
  have hno : (noBlocks s.build.N).length = s.build.N := List.length_replicate
  have hcur := acqCur_length h.shaped
  have hbuild (u : State) : (renewCurrent u).build = u.build := by rw [renewCurrent_frame]
  have hflow (u : State) : (renewCurrent u).flow = u.flow := by rw [renewCurrent_frame]
  have hempty {u : State} (hu : Sound [] u) : Sound (noBlocks s.build.N ++ []) u :=
    ⟨hu.shaped, hu.filled, hu.accounted.moved rfl rfl fun k => by rw [List.append_nil, count_noBlocks]; rfl⟩
  unfold acqPhase
  split_ifs with hfull hhave
  · have hmoved : Sound (s.acqCur ++ []) { s with acqCur := noBlocks s.build.N, acqOff := 0 } := by
      refine ⟨?_, h.filled, h.accounted.moved rfl rfl fun k => ?_⟩
      · obtain ⟨hvalid, hchans, -, -, hrest⟩ := h.shaped
        exact ⟨hvalid, hchans, hno, .inl rfl, hrest⟩
      · simp only [count_places, count_noBlocks, List.append_nil, List.count_nil]
        omega
    obtain ⟨hr, hr'⟩ := renewCurrent_sound hmoved (vacant_noBlocks _)
    exact ⟨setFlow_sound _ (by rw [hbuild]; exact hcur) (by rw [hbuild]; exact hcur) (by rw [hflow]; exact hquiet) hr,
      hr'⟩
  · obtain ⟨hr, hr'⟩ := renewCurrent_sound h (vacant_of_not_acqHave h.shaped hall hhave)
    exact ⟨setFlow_sound _ (by rw [hbuild]; exact hno) (by rw [hbuild]; exact hno) (by rw [hflow]; exact hquiet)
      (hempty hr), hr'⟩
  · exact ⟨setFlow_sound _ hno hno hquiet (hempty h), hall⟩

-- Delay line

/-- Rows and single places, balanced row by row, are balanced together. -/
theorem count_rows_balance {cs : List Nat} {row row' : Nat → List Slot} {into out gone : Nat → Slot} {k : Handle}
    (h : ∀ c, (row' c).count (some k) + [out c].count (some k) + [gone c].count (some k) =
      (row c).count (some k) + [into c].count (some k)) :
    (cs.map row').flatten.count (some k) + (cs.map out).count (some k) + (cs.map gone).count (some k) =
      (cs.map row).flatten.count (some k) + (cs.map into).count (some k) := by
  induction cs with
  | nil => rfl
  | cons c cs ih =>
    have := h c
    rw [List.map_cons, List.map_cons, List.map_cons, List.map_cons, List.map_cons, List.flatten_cons, List.flatten_cons,
      List.count_append, List.count_append, count_hand_cons, count_hand_cons (gone c), count_hand_cons (into c)]
    omega

theorem map_dlRow_range {s : State} (h : Shaped s) : (List.range s.build.N).map (dlRow s) = s.dlSlot := by
  rw [← dlSlot_length h]
  exact map_getD_range s.dlSlot _

theorem dlPhase_sound {s : State} {hand : List Slot} (h : Sound hand s) : Sound hand (dlPhase s) := by
  have hshaped := dlPhase_shaped h.shaped
  unfold dlPhase at hshaped ⊢
  split
  · exact h
  · rename_i hdelays
    rw [if_neg hdelays] at hshaped
    obtain ⟨-, -, -, -, -, -, -, hDCAP, -⟩ := (buildValid_iff s.build).mp h.shaped.1
    have hrow := dlRow_length h.shaped
    refine ⟨hshaped, ?_, h.accounted.released
      (os := (List.range s.build.N).map fun c => slotAt (dlRow s c) (dlNextHead s)) (free_length h.shaped) ?_ rfl
      fun k => ?_⟩
    · simp only
      rw [releaseAll_frame]
      exact h.filled
    · simp only
      rw [releaseAll_frame]
    · have hbalance (c : Nat) : ((dlStored s c).set (dlOutIndex s) none).count (some k) +
          [slotAt (dlStored s c) (dlOutIndex s)].count (some k) + [slotAt (dlRow s c) (dlNextHead s)].count (some k) =
          (dlRow s c).count (some k) + [slotAt s.flow c].count (some k) := by
        have hin := count_set_slot (dlRow s c) (i := dlNextHead s) (by rw [hrow]; exact Nat.mod_lt _ hDCAP)
          (slotAt s.flow c) k
        have hout := count_set_slot (dlStored s c) (i := dlOutIndex s)
          (by rw [dlStored, List.length_set, hrow]; exact Nat.mod_lt _ hDCAP) none k
        rw [count_single_none] at hout
        rw [dlStored] at hout ⊢
        omega
      have hrows := count_rows_balance (cs := List.range s.build.N) (row := dlRow s) hbalance
      rw [map_slotAt_range (flow_length h.shaped), map_dlRow_range h.shaped] at hrows
      simp only
      rw [releaseAll_frame, count_places, count_places]
      simp only
      omega

end Sys2Proof.Machine
end

section
/-! Ownership through the multiplexer, START, the whole tick and every step (10_state.md R60, R70, R72). -/

namespace Sys2Proof.Machine

-- Multiplexer

theorem muxAccept_flow (s : State) (c : Nat) : (muxAccept s c).flow = s.flow := by rw [muxAccept_frame]

/-- One channel's block, in the hand while the transit is being emptied, is held or released (R330, R332). -/
theorem muxAccept_accounted {s : State} {hand flow : List Slot} {c : Nat} (hshaped : Shaped s) (hc : c < s.build.N)
    (h : Accounted (slotAt s.flow c :: hand) { s with flow := flow }) :
    Accounted hand { muxAccept s c with flow := flow } := by
  have hlen := free_length hshaped
  obtain ⟨hnone, he⟩ | ⟨k, hk, he | ⟨hempty, he⟩⟩ := muxAccept_cases s c <;> rw [he]
  · refine h.moved rfl rfl fun j => ?_
    rw [hnone, count_hand_cons, count_single_none, Nat.zero_add]
  · rw [hk] at h
    refine h.released (os := [some k]) hlen rfl rfl fun j => ?_
    have := count_hand_cons (some k) hand j
    change (places { s with flow := flow }).count (some j) + _ + _ = _
    omega
  · rw [hk] at h
    refine h.moved rfl rfl fun j => ?_
    have hset := count_set_slot s.muxIn (hc.trans_eq (muxIn_length hshaped).symm) (some k) j
    rw [hempty, count_single_none] at hset
    rw [count_places, count_places, count_hand_cons]
    simp only
    omega

theorem foldl_muxAccept_accounted {s : State} {hand flow : List Slot} {cs : List Nat} (hshaped : Shaped s)
    (hcs : ∀ c ∈ cs, c < s.build.N) (h : Accounted (cs.map (slotAt s.flow) ++ hand) { s with flow := flow }) :
    Accounted hand { cs.foldl muxAccept s with flow := flow } := by
  induction cs generalizing s with
  | nil => exact h
  | cons c cs ih =>
    refine ih (muxAccept_shaped c hshaped) (fun i hi => ?_) ?_
    · rw [muxAccept_frame]
      exact hcs i (List.mem_cons_of_mem _ hi)
    · rw [muxAccept_flow]
      exact muxAccept_accounted hshaped (hcs c List.mem_cons_self) h

theorem muxAcceptAll_sound {s : State} {hand : List Slot} (h : Sound hand s) : Sound hand (muxAcceptAll s) := by
  refine ⟨muxAcceptAll_shaped h.shaped, ?_, ?_⟩
  · rw [muxAcceptAll_frame]
    exact h.filled
  · refine foldl_muxAccept_accounted h.shaped (fun c => List.mem_range.1) (h.accounted.moved rfl rfl fun k => ?_)
    rw [map_slotAt_range (flow_length h.shaped), count_places, count_places, List.count_append]
    simp only [count_noBlocks]
    omega

/-- The inputs of a frame go back to the pool (R333, R337). -/
theorem muxEmpty_sound {s : State} {hand : List Slot} (h : Sound hand s) : Sound hand (muxEmpty s) := by
  refine ⟨muxEmpty_shaped h.shaped, ?_, h.accounted.released (os := s.muxIn) (free_length h.shaped) ?_ rfl fun k => ?_⟩
  · rw [muxEmpty_frame]
    exact h.filled
  · rw [muxEmpty_frame]
  · rw [muxEmpty_frame, count_places, count_places]
    simp only [count_noBlocks]
    omega

/-- Writing samples changes no place and no free bit. -/
theorem muxWrite_sound {s : State} {hand : List Slot} (bs : List (Handle × Nat)) (h : Sound hand s) :
    Sound hand (bs.foldl muxWriteBlock s) := by
  rw [muxWrite_frame]
  exact ⟨h.shaped, h.filled, h.accounted⟩

theorem pushEach_sound {s : State} {hand : List Slot} (os : List Handle) (h : Sound (os.map some ++ hand) s) :
    Sound hand (os.foldl (fun s k => queuePush 0 k s) s) := by
  induction os generalizing s with
  | nil => exact h
  | cons k os ih => exact ih (queuePush_sound (NQ_le_of_buildValid h.shaped.1).1 h)

theorem muxEmit_sound {s : State} {hand : List Slot} (os : List Handle) (h : Sound (os.map some ++ hand) s) :
    Sound hand (muxEmit os s) :=
  muxEmpty_sound (pushEach_sound os (muxWrite_sound _ h))

theorem muxFrame_sound {s : State} {hand : List Slot} (h : Sound hand s) : Sound hand (muxFrame s) := by
  obtain he | he | he := muxFrame_cases s <;> rw [he]
  · exact h
  · have hempty := muxEmpty_sound h
    exact ⟨hempty.shaped, hempty.filled, hempty.accounted⟩
  · exact muxEmit_sound _ (allocEach_sound _ h)

theorem muxPhase_sound {s : State} {hand : List Slot} (h : Sound hand s) : Sound hand (muxPhase s) := by
  unfold muxPhase
  split
  · exact muxFrame_sound (muxAcceptAll_sound h)
  · exact h

-- The tick

/-- Within a tick: sound with an empty hand, and the current slots all or none. -/
def InTick (s : State) : Prop := Sound [] s ∧ CurrentAllOrNone s

/-- Every phase but the acquisition update keeps the current slots (R235). -/
theorem phase_acqCur {s t : State} {i : Instr} (he : PhaseEffect s i t) (hi : i ≠ .acq) : t.acqCur = s.acqCur := by
  cases he with
  | isr => rw [isrPhase_frame]
  | acq => exact absurd rfl hi
  | dl => rw [dlPhase_frame]
  | discarded => rw [discardFlow_frame]
  | detected => rw [detUpdate_frame]
  | mux => rw [muxPhase_frame]
  | qpush => rw [pushPhase_frame]

theorem phase_inTick {s t : State} {i : Instr} (he : PhaseEffect s i t) (hi : i ≠ .acq) (h : InTick s) : InTick t := by
  refine ⟨?_, by rw [CurrentAllOrNone, phase_acqCur he hi]; exact h.2⟩
  cases he with
  | isr => exact isrPhase_sound h.1
  | acq => exact absurd rfl hi
  | dl => exact dlPhase_sound h.1
  | discarded => exact discardFlow_sound h.1
  | detected => exact detUpdate_sound h.1
  | mux => exact muxPhase_sound h.1
  | qpush => exact pushPhase_sound h.1

theorem sinkPhases_inTick {s : State} (h : InTick s) : InTick (sinkPhases s) := by
  unfold sinkPhases
  split
  · exact phase_inTick .mux (by decide) h
  · exact pushAll_keeps (P := InTick) (fun _ => phase_inTick .qpush (by decide)) _ h

/-- A push takes one block out of the transit, if there is one. -/
theorem pushPhase_transit {s : State} (hlen : s.flow.length = s.build.N) :
    (pushPhase s).flow.countP Option.isSome = s.flow.countP Option.isSome - 1 := by
  obtain ⟨he, hnone⟩ | ⟨c, k, hc, hk, he⟩ := pushPhase_cases s <;> rw [he]
  · have hzero : s.flow.countP Option.isSome = 0 := by
      rw [← map_slotAt_range hlen, List.countP_map]
      exact List.countP_eq_zero.2 fun c hc => by simp [hnone c (List.mem_range.1 hc)]
    rw [hzero]
  · have hc' := hc.trans_eq hlen.symm
    have hold : s.flow[c] = some k := by rw [← hk, slotAt, List.getD_eq_getElem _ _ hc']
    rw [queuePush_frame]
    simp only
    rw [List.countP_set hc', hold]
    simp

/-- Pushing once per channel leaves nothing in transit (R203, R205). -/
theorem pushAll_vacant {n : Nat} {s : State} (hshaped : Shaped s) (hn : s.flow.countP Option.isSome ≤ n) :
    Vacant (pushAll n s).flow := by
  induction n generalizing s with
  | zero =>
    rw [vacant_iff, List.all_eq_true]
    intro o ho
    have := List.countP_eq_zero.1 (Nat.le_zero.1 hn) o ho
    simpa using this
  | succ n ih =>
    refine ih (pushPhase_shaped hshaped) ?_
    rw [pushPhase_transit (flow_length hshaped)]
    omega

/-- After the sink nothing is in transit (R207). -/
theorem sinkPhases_vacant {s : State} (h : Shaped s) : Vacant (sinkPhases s).flow := by
  unfold sinkPhases muxPhase
  split
  · rw [muxFrame_frame, muxAcceptAll_frame]
    exact vacant_noBlocks _
  · exact pushAll_vacant h (List.countP_le_length.trans_eq (flow_length h))

/-- The end of a tick, with nothing in transit, restores the invariant between steps. -/
theorem blockInvariant_endTick {s : State} (h : InTick s) (hno : Vacant s.flow) : BlockInvariant (endTick s) := by
  obtain ⟨hs, hall⟩ := h
  have hlen : (noBlocks s.build.N).length = s.build.N := List.length_replicate
  have hend : Sound [] (endTick s) := setFlow_sound _ hlen hlen hno
    ⟨hs.shaped, hs.filled, hs.accounted.moved rfl rfl fun k => by rw [List.append_nil, count_noBlocks]; rfl⟩
  exact ⟨hend.shaped, ⟨rfl, rfl⟩, hall, hend.filled, (owned_iff_accounted (free_length hend.shaped)).2 hend.accounted⟩

theorem sound_of_blockInvariant {s : State} (h : BlockInvariant s) : Sound [] s := by
  obtain ⟨hshaped, -, -, hfilled, howned⟩ := h
  exact ⟨hshaped, hfilled, (owned_iff_accounted (free_length hshaped)).1 howned⟩

/-- A tick keeps the invariant (R203, R207). -/
theorem tick_blockInvariant {s t : State} (h : BlockInvariant s) (ht : tick s = .next t) : BlockInvariant t := by
  have hs := sound_of_blockInvariant h
  obtain ⟨-, hquiet, hall, -⟩ := h
  have hisr : InTick (isrPhase s) := phase_inTick .isr (by decide) ⟨hs, hall⟩
  have hflow : Vacant (isrPhase s).flow := by
    rw [isrPhase_frame]
    simp only [hquiet.2]
    exact vacant_noBlocks _
  have hacq : InTick (acqPhase (isrPhase s)) := acqPhase_sound hisr.1 hisr.2 hflow
  have hsink {u : State} (hu : InTick u) : BlockInvariant (endTick (sinkPhases u)) :=
    blockInvariant_endTick (sinkPhases_inTick hu) (sinkPhases_vacant hu.1.shaped)
  obtain rfl | ⟨u, hu, rfl⟩ := tick_cases ht
  · exact hsink hacq
  · exact hsink (phase_inTick (detPhase_effect hu) (by decide) (phase_inTick .dl (by decide) hacq))

-- Session

/-- START releases every block of the delay line and the multiplexer, each place once (R401). -/
theorem count_sessionPlaces {s : State} (h : Shaped s) (k : Handle) :
    (sessionPlaces s).count (some k) = s.dlSlot.flatten.count (some k) + s.muxIn.count (some k) := by
  have hrow (c : Nat) : (List.range s.build.DCAP).map (slotAt (dlRow s c)) = dlRow s c :=
    map_slotAt_range (dlRow_length h c)
  have hplaces (cs : List Nat) : (cs.flatMap fun c => dlRow s c ++ [slotAt s.muxIn c]).count (some k) =
      (cs.map (dlRow s)).flatten.count (some k) + (cs.map (slotAt s.muxIn)).count (some k) := by
    induction cs with
    | nil => rfl
    | cons c cs ih =>
      rw [List.flatMap_cons, List.map_cons, List.map_cons, List.flatten_cons, List.count_append, List.count_append,
        List.count_append, count_hand_cons (slotAt s.muxIn c) (cs.map _)]
      omega
  simp only [sessionPlaces, hrow]
  rw [hplaces, map_dlRow_range h, map_slotAt_range (muxIn_length h)]

theorem beginSession_sound {s : State} {hand : List Slot} (h : Sound hand s) : Sound hand (beginSession s) := by
  refine ⟨beginSession_shaped h.shaped, ?_,
    h.accounted.released (os := sessionPlaces s) (free_length h.shaped) ?_ rfl fun k => ?_⟩
  · rw [beginSession_frame]
    exact h.filled
  · rw [beginSession_frame]
  · have hrows : (List.replicate s.build.N (noBlocks s.build.DCAP)).flatten.count (some k) = 0 := by
      rw [noBlocks, List.flatten_replicate_replicate]
      exact count_noBlocks _ k
    rw [beginSession_frame, count_places, count_places, count_sessionPlaces h.shaped]
    simp only [hrows, count_noBlocks]
    omega

-- Every step

/-- The invariant holds again when an operation that is sound keeps the current slots and what is in transit. -/
theorem blockInvariant_of_sound {s t : State} (h : BlockInvariant s) (ht : Sound [] t)
    (hkept : t.build = s.build ∧ t.live = s.live ∧ t.flow = s.flow ∧ t.acqCur = s.acqCur) : BlockInvariant t := by
  obtain ⟨-, hquiet, hall, -⟩ := h
  obtain ⟨hbuild, hlive, hflow, hcur⟩ := hkept
  refine ⟨ht.shaped, ?_, ?_, ht.filled, (owned_iff_accounted (free_length ht.shaped)).2 ht.accounted⟩
  · rw [Quiet, hlive, hflow, hbuild]
    exact hquiet
  · rw [CurrentAllOrNone, hcur]
    exact hall

theorem effect_blockInvariant {s t : State} {x : Except Reject Instr} (he : Effect s x t) (h : BlockInvariant s)
    (hphase : ∀ {i : Instr}, x = .ok i → ¬ PhaseEffect s i t) : BlockInvariant t := by
  have hs := sound_of_blockInvariant h
  have hshaped := effect_shaped he h.1
  cases he with
  | configured a d r =>
    rw [writeConfig_frame] at hshaped ⊢
    exact ⟨hshaped, h.2⟩
  | began =>
    exact blockInvariant_of_sound h (beginSession_sound hs) (by rw [beginSession_frame]; exact ⟨rfl, rfl, rfl, rfl⟩)
  | detectorReset => exact ⟨hshaped, h.2⟩
  | borrowed _ q hq =>
    exact blockInvariant_of_sound h (borrowOldest_sound hq hs) (by rw [borrowOldest_frame]; exact ⟨rfl, rfl, rfl, rfl⟩)
  | returned _ q hq =>
    exact blockInvariant_of_sound h (returnLent_sound hq hs) (by rw [returnLent_frame]; exact ⟨rfl, rfl, rfl, rfl⟩)
  | drained _ q hq =>
    exact blockInvariant_of_sound h (drainQueue_sound hq hs) (by rw [drainQueue_frame]; exact ⟨rfl, rfl, rfl, rfl⟩)
  | beat d =>
    rw [storeBeat_frame] at hshaped ⊢
    exact ⟨hshaped, h.2⟩
  | completed d k =>
    rw [complete_frame, storeBeat_frame] at hshaped ⊢
    exact ⟨hshaped, h.2⟩
  | ticked k ht => exact tick_blockInvariant (s := { s with evPend := false }) h ht
  | phase hp => exact absurd hp (hphase rfl)
  | power => exact blockInvariant_resetOf h.1.1
  | _ => exact h

/-- Settles O54: a phase code is the only input that can leave blocks in transit. -/
theorem stepKeepsOwnership : Obligations.StepKeepsOwnership := by
  intro s t h hnext hstep
  obtain rfl | ⟨p, rest, hin, he⟩ := step_effect hstep
  · exact h
  · refine effect_blockInvariant he h fun hp heffect => ?_
    obtain ⟨code, rfl⟩ := eq_phase_of_decode hp heffect
    simp [nextIsPhase, hin] at hnext

end Sys2Proof.Machine
end

section
/-! The step of an input that is an instruction, the raw and the pool window of the host (20_memory.md R104-R108), and what
no host instruction writes (R107). -/

namespace Sys2Proof.Machine

-- The step

/-- Settles O6: a valid build fetches the input, decodes it and executes it, in this order. -/
theorem stepRunsTheDecodedInstruction : Obligations.StepRunsTheDecodedInstruction := by
  intro s p rest i hvalid hin hp
  simp only [step, if_pos hvalid, nextInput, hin, hp]

-- What a read access does, by window

theorem exec_rd32_of_misaligned {s : State} {a : BitVec 16} (h : a.toNat % 4 ≠ 0) :
    exec (.rd32 a) s = .next (refuseRead s) := if_pos h

/-- An aligned 4-byte read from 0x4000 to 0x7FFC goes to the raw window (R104). -/
theorem exec_rd32_of_raw {s : State} {a : BitVec 16} (halign : a.toNat % 4 = 0) (hlo : 0x4000 ≤ a.toNat)
    (hhi : a.toNat < 0x8000) : exec (.rd32 a) s = .next (readRawWindow a.toNat s) := by
  change execRd32 a s = _
  rw [execRd32, if_neg (not_not.2 halign), if_neg (by omega), if_pos hhi]

/-- An aligned 4-byte read of a pair in range answers that pair (R105). -/
theorem exec_rd32_of_pool {s : State} {a : BitVec 16} {g : Nat} (ha : a.toNat = 0x8000 + 2 * g) (heven : g % 2 = 0)
    (hg : g + 1 < s.build.NBLK * s.build.L) : exec (.rd32 a) s = .next (readSamplePair g s) := by
  change execRd32 a s = _
  have hindex : (a.toNat - 0x8000) / 2 = g := by omega
  rw [execRd32, if_neg (by omega), if_neg (by omega), if_neg (by omega), readPoolWindow, hindex, if_pos hg]

/-- An aligned 2-byte read of a sample in range answers that sample (R105). -/
theorem exec_rd16_of_pool {s : State} {a : BitVec 16} {g : Nat} (ha : a.toNat = 0x8000 + 2 * g)
    (hg : g < s.build.NBLK * s.build.L) : exec (.rd16 a) s = .next (readSampleOne g s) := by
  change execRd16 a s = _
  have hindex : (a.toNat - 0x8000) / 2 = g := by omega
  rw [execRd16, hindex, if_pos ⟨by omega, by omega, hg⟩]

/-- 2-byte reads are performed in the pool window alone (R421). -/
theorem exec_rd16_of_below_pool {s : State} {a : BitVec 16} (h : a.toNat < 0x8000) :
    exec (.rd16 a) s = .next (refuseRead s) := if_neg fun hpool => absurd hpool.1 (by omega)

/-- No 4-byte write is performed above the registers (R104, R107). -/
theorem exec_wr32_of_window {s : State} {a : BitVec 16} (d : Word) (h : 0x4000 ≤ a.toNat) :
    exec (.wr32 a d) s = .next (refuseWrite s) := if_pos (.inr h)

-- The raw window

/-- Settles O26: an aligned 4-byte read reaches the raw window, which asks for a word below 2H; every other access is
refused for its width, its alignment or its direction. -/
theorem rawWindowIsReadOnlyWords : Obligations.RawWindowIsReadOnlyWords := by
  intro s a d hlo hhi
  refine ⟨fun halign hj => ?_, fun hbad => ?_, fun i hi => ?_, fun i hi => ?_⟩
  · rw [exec_rd32_of_raw halign hlo hhi, readRawWindow, if_pos hj]
    rfl
  · by_cases halign : a.toNat % 4 = 0
    · have hj := hbad.resolve_left (not_not.2 halign)
      rw [exec_rd32_of_raw halign hlo hhi, readRawWindow, if_neg (not_lt.2 hj)]
      rfl
    · exact exec_rd32_of_misaligned halign
  · obtain rfl | rfl := List.mem_pair.1 hi
    · exact exec_rd16_of_below_pool hhi
    · rfl
  · simp only [List.mem_cons, List.not_mem_nil, or_false] at hi
    obtain rfl | rfl | rfl := hi
    · exact exec_wr32_of_window d hlo
    · rfl
    · rfl

-- The pool window

/-- A sample of a lent block is its content, and no free value is taken (R108). -/
theorem hostSample_of_lent {s : State} {g : Nat} (h : lent s (g / s.build.L) = true) : hostSample s g = (plin s g, s) :=
  if_pos h

/-- Lent or not, a sample read moves at most the count of free values (U3, log 7). -/
theorem hostSample_cases (s : State) (g : Nat) : ∃ v k, hostSample s g = (v, { s with draws := k }) :=
  ⟨_, _, Prod.ext rfl (hostSample_frame s g)⟩

/-- Settles O27: both reads are performed in range; they move what their sample reads move, which is nothing when the
samples are of lent blocks. -/
theorem poolWindowReadsLentSamples : Obligations.PoolWindowReadsLentSamples := by
  intro s a g ha
  refine ⟨fun hg => ?_, fun heven hg => ?_⟩
  · rw [exec_rd16_of_pool ha hg, readSampleOne]
    obtain ⟨v, k, hread⟩ := hostSample_cases s g
    refine ⟨⟨v, k, ?_⟩, fun hlent => ?_⟩
    · rw [hread]
      rfl
    · rw [hostSample_of_lent hlent]
      rfl
  · rw [exec_rd32_of_pool ha heven hg, readSamplePair]
    obtain ⟨lo, k, hreadLo⟩ := hostSample_cases s g
    obtain ⟨hi, k', hreadHi⟩ := hostSample_cases { s with draws := k } (g + 1)
    refine ⟨⟨hi ++ lo, k', ?_⟩, fun hlentLo hlentHi => ?_⟩
    · rw [hreadLo, hreadHi]
      rfl
    · rw [hostSample_of_lent hlentLo, hostSample_of_lent hlentHi]
      rfl

-- What no host instruction writes

/-- Settles O32: the effects that write memory, the DMA's state or the acquisition slots are those of a beat, a service or
a phase, and none of these is the host's. -/
theorem hostNeverWritesSamples : Obligations.HostNeverWritesSamples := by
  intro i s t hhost hexec
  cases exec_effect hexec with
  | configured a d r => rw [writeConfig_frame]; simp
  | began => rw [beginSession_frame]; simp
  | borrowed _ q => rw [borrowOldest_frame]; simp
  | returned _ q => rw [returnLent_frame]; simp
  | drained _ q => rw [drainQueue_frame]; simp
  | beat | completed => cases hhost
  | serviced k | ticked k => cases k <;> cases hhost
  | phase hp => cases hp <;> cases hhost
  | _ => exact ⟨rfl, rfl, rfl, rfl, rfl, rfl, rfl⟩

end Sys2Proof.Machine
end

section
/-! The encoding (30_encoding.md): every well-formed instruction is read back from its word, and a word of a port selects the
row of R147, R148 or R149 that it matches. -/

namespace Sys2Proof.Machine

-- The round trip

/-- Settles O1: the round trip of each row of the opcode table. -/
theorem decodeReadsBackEveryEncoding : Obligations.DecodeReadsBackEveryEncoding := by
  intro i hi
  cases i with
  | nop => exact Laws.RoundTrip.nop hi
  | start => exact Laws.RoundTrip.start hi
  | stop => exact Laws.RoundTrip.stop hi
  | detrst => exact Laws.RoundTrip.detrst hi
  | qavail q => exact Laws.RoundTrip.qavail q hi
  | qread q => exact Laws.RoundTrip.qread q hi
  | qfree q => exact Laws.RoundTrip.qfree q hi
  | qclear q => exact Laws.RoundTrip.qclear q hi
  | rd32 a => exact Laws.RoundTrip.rd32 a hi
  | rd16 a => exact Laws.RoundTrip.rd16 a hi
  | rd8 a => exact Laws.RoundTrip.rd8 a hi
  | wr32 a d => exact Laws.RoundTrip.wr32 a d hi
  | wr16 a d => exact Laws.RoundTrip.wr16 a d hi
  | wr8 a d => exact Laws.RoundTrip.wr8 a d hi
  | dmaWr d => exact Laws.RoundTrip.dmaWr d hi
  | evHalf => exact Laws.RoundTrip.evHalf hi
  | evFull => exact Laws.RoundTrip.evFull hi
  | isr => exact Laws.RoundTrip.isr hi
  | acq => exact Laws.RoundTrip.acq hi
  | dl => exact Laws.RoundTrip.dl hi
  | det => exact Laws.RoundTrip.det hi
  | mux => exact Laws.RoundTrip.mux hi
  | qpush => exact Laws.RoundTrip.qpush hi

-- Fields of a word

/-- A bit inside the mask is the pattern's bit. -/
theorem getLsbD_of_and_eq {n : Nat} {w mask pattern : BitVec n} {k : Nat} (h : w &&& mask = pattern)
    (hk : mask.getLsbD k = true) : w.getLsbD k = pattern.getLsbD k := by
  rw [← h, BitVec.getLsbD_and, hk, Bool.and_true]

/-- The low bits of a word, as its value modulo a power of two. -/
theorem extractLsb'_zero_eq_ofNat {n : Nat} (w : BitVec n) (len : Nat) :
    w.extractLsb' 0 len = BitVec.ofNat len (w.toNat % 2 ^ len) :=
  BitVec.eq_of_toNat_eq (by simp)

/-- Q is word[19:16] (R141, R146). -/
theorem cmdQ_eq (w : Word) : cmdQ w = w.toNat / 2 ^ 16 % 16 := by
  rw [cmdQ, BitVec.extractLsb'_toNat, Nat.shiftRight_eq_div_pow]

-- Command words

/-- The full pattern of a CMD instruction's row: the word itself, or the match under the mask that leaves Q free (R147).
An instruction of another port has no such row (R140). -/
def SelectsRow (w : Word) : Instr → Prop
  | .nop => w = 0x00000000
  | .start => w = 0x01000000
  | .stop => w = 0x02000000
  | .detrst => w = 0x03000000
  | .qavail q => w &&& 0xFFF0FFFF = 0x10000000 ∧ q = cmdQ w
  | .qread q => w &&& 0xFFF0FFFF = 0x11000000 ∧ q = cmdQ w
  | .qfree q => w &&& 0xFFF0FFFF = 0x12000000 ∧ q = cmdQ w
  | .qclear q => w &&& 0xFFF0FFFF = 0x13000000 ∧ q = cmdQ w
  | _ => False

theorem matchesRow_iff (w mask pattern : Word) : matchesRow w mask pattern = true ↔ w &&& mask = pattern := beq_iff_eq

/-- Under the full mask a row is one word. -/
theorem matchesRow_full (w pattern : Word) : matchesRow w 0xFFFFFFFF pattern = true ↔ w = pattern := by
  rw [matchesRow_iff, show (0xFFFFFFFF : Word) = BitVec.allOnes 32 from rfl, BitVec.and_allOnes]

/-- A word that matches a row is none of the words that do not. -/
theorem ne_of_and_eq {w mask pattern k : Word} (h : w &&& mask = pattern) (hk : k &&& mask ≠ pattern) : w ≠ k :=
  fun heq => hk (heq ▸ h)

/-- The branch taken is the row that matches. -/
theorem selectsRow_of_decodeCmd {w : Word} {c : Command} (h : decodeCmd w = some c) : SelectsRow w c.toInstr := by
  unfold decodeCmd at h
  simp only [matchesRow_full, matchesRow_iff w 0xFFF0FFFF] at h
  split_ifs at h with hnop hstart hstop hdetrst hqavail hqread hqfree hqclear
  all_goals cases h
  · exact hnop
  · exact hstart
  · exact hstop
  · exact hdetrst
  · exact ⟨hqavail, rfl⟩
  · exact ⟨hqread, rfl⟩
  · exact ⟨hqfree, rfl⟩
  · exact ⟨hqclear, rfl⟩

/-- The rows before a matching one do not match: a queue command's row holds no session command's word, and one masked
word equals one match only. -/
theorem decodeCmd_of_selectsRow {w : Word} {c : Command} (h : SelectsRow w c.toInstr) : decodeCmd w = some c := by
  cases c with
  | nop | start | stop | detrst => cases h; rfl
  | qavail q | qread q | qfree q | qclear q =>
    obtain ⟨hrow, rfl⟩ := h
    have hne (k : Word) := ne_of_and_eq (k := k) hrow
    simp only [decodeCmd, matchesRow_full, matchesRow_iff w 0xFFF0FFFF, hrow]
    iterate 4 rw [if_neg (hne _ (by decide))]
    rfl

/-- A CMD word decodes to a command's instruction exactly when it matches that command's row (R147). -/
theorem decode_cmd_iff {w : Word} {c : Command} : decode (.cmd w) = .ok c.toInstr ↔ SelectsRow w c.toInstr := by
  refine ⟨fun h => ?_, fun h => by rw [decode, decodeCmd_of_selectsRow h]⟩
  rw [decode] at h
  split at h
  · rename_i d hd
    rw [← Except.ok.inj h]
    exact selectsRow_of_decodeCmd hd
  · cases h

/-- Settles O2: the two kinds of row in the spec's terms, word[19:16] being its value by division. -/
theorem commandWordsSelectTheirRow : Obligations.CommandWordsSelectTheirRow := by
  intro w q
  rw [← cmdQ_eq]
  exact ⟨decode_cmd_iff (c := .nop), decode_cmd_iff (c := .start), decode_cmd_iff (c := .stop),
    decode_cmd_iff (c := .detrst), decode_cmd_iff (c := .qavail q), decode_cmd_iff (c := .qread q),
    decode_cmd_iff (c := .qfree q), decode_cmd_iff (c := .qclear q)⟩

-- BUS descriptors

/-- W and SZ of a descriptor that matches a row under the mask 0x70000 are those of the row's match (R142). -/
theorem busBits_of_and_eq {desc pattern : BitVec 19} (h : desc &&& 0x70000 = pattern) :
    desc.getLsbD 18 = pattern.getLsbD 18 ∧ desc.getLsbD 17 = pattern.getLsbD 17 ∧
      desc.getLsbD 16 = pattern.getLsbD 16 :=
  ⟨getLsbD_of_and_eq h (by decide), getLsbD_of_and_eq h (by decide), getLsbD_of_and_eq h (by decide)⟩

/-- SZ = 11 is reserved for a read and for a write (R151). -/
theorem decodeBus_of_reserved {desc : BitVec 19} (data : Word) (h17 : desc.getLsbD 17 = true)
    (h16 : desc.getLsbD 16 = true) : decodeBus desc data = .error (.reservedBus (desc.getLsbD 18)) := by
  unfold decodeBus
  rw [h17, h16]
  cases desc.getLsbD 18 <;> rfl

/-- Settles O3: the six matches fix W and SZ, and SZ = 11 leaves W free. -/
theorem busDescriptorsSelectTheirRow : Obligations.BusDescriptorsSelectTheirRow := by
  intro desc data
  refine ⟨fun h => ?_, fun h => ?_, fun h => ?_, fun h => ?_, fun h => ?_, fun h => ?_, fun h => ?reserved⟩
  case reserved =>
    exact decodeBus_of_reserved data (getLsbD_of_and_eq h (by decide)) (getLsbD_of_and_eq h (by decide))
  all_goals
    obtain ⟨hW, hSZ1, hSZ0⟩ := busBits_of_and_eq h
    rw [decode, decodeBus, hW, hSZ1, hSZ0, extractLsb'_zero_eq_ofNat]
    rfl

-- Beats, event codes and phase codes

/-- V of a beat (R143). -/
theorem beatValid_of_and_eq {beat pattern : BitVec 33} (h : beat &&& 0x100000000 = pattern) :
    beat.getLsbD 32 = pattern.getLsbD 32 :=
  getLsbD_of_and_eq h (by decide)

/-- Settles O4: V tells a beat from an idle cycle, and the event and phase codes are closed words. -/
theorem beatsEventsAndPhasesSelectTheirRow : Obligations.BeatsEventsAndPhasesSelectTheirRow := by
  refine ⟨fun beat => ⟨fun h => ?_, fun h => ?_⟩, by decide⟩
  · rw [decode, decodeDma, beatValid_of_and_eq h, extractLsb'_zero_eq_ofNat]
    rfl
  · rw [decode, decodeDma, beatValid_of_and_eq h]
    rfl

-- Words of the test vectors

/-- Settles O5: nine closed words. -/
theorem vectorWordsDecode : Obligations.VectorWordsDecode := by
  unfold Obligations.VectorWordsDecode
  decide

end Sys2Proof.Machine
end

section
/-! DMA beats (40_tick.md R200): a beat stores one raw word, advances the position, and raises a completion at the end
of a half. -/

namespace Sys2Proof.Machine

/-- The position runs through the 2H raw words and starts again (R200). -/
theorem nextPos_eq {s : State} (h : s.dmaPos < 2 * s.build.H) :
    nextPos s = if s.dmaPos + 1 = 2 * s.build.H then 0 else s.dmaPos + 1 := by
  unfold nextPos
  split
  · rename_i hlast
    rw [hlast, Nat.mod_self]
  · exact Nat.mod_eq_of_lt (by omega)

/-- The new position is the start of a half exactly after the last word of one (R200). -/
theorem nextPos_boundary_iff {s : State} (hH : 1 ≤ s.build.H) (h : s.dmaPos < 2 * s.build.H) :
    (nextPos s = s.build.H ∨ nextPos s = 0) ↔
      (s.dmaPos + 1 = s.build.H ∨ s.dmaPos + 1 = 2 * s.build.H) := by
  rw [nextPos_eq h]
  split <;> omega

/-- The kind of a completion by the position before its beat (R200). -/
theorem kindAt_nextPos {s : State} (hH : 1 ≤ s.build.H) (h : s.dmaPos < 2 * s.build.H) :
    kindAt s (nextPos s) = if s.dmaPos + 1 = s.build.H then .half else .full := by
  have hiff : nextPos s = s.build.H ↔ s.dmaPos + 1 = s.build.H := by
    rw [nextPos_eq h]
    split <;> omega
  simp only [kindAt, hiff]

/-- Every byte outside a raw word is kept by a write of it (R101, R107). -/
theorem readByte_writeRaw_other {j a : Nat} (w : Word) (s : State) (h : a < rawAddr j ∨ rawAddr j + 4 ≤ a) :
    readByte (writeRaw j w s) a = readByte s a := by
  simp only [writeRaw, writeFull, readByte_writeHalf]
  rw [if_neg (by omega), if_neg (by omega), if_neg (by omega), if_neg (by omega)]

/-- Settles O33: the beat is `storeBeat`, followed at the end of a half by `complete`. -/
theorem dmaBeatStoresAndAdvances : Obligations.DmaBeatStoresAndAdvances := by
  refine ⟨fun d => Laws.RoundTrip.dmaWr d rfl, fun s d hH hp => ?_⟩
  refine ⟨(writeRaw s.dmaPos d s).mem, ?_, rawWord_writeRaw_same s.dmaPos d s,
    fun a ha => readByte_writeRaw_other d s ha⟩
  rw [exec, execDmaWr]
  by_cases hedge : s.dmaPos + 1 = s.build.H ∨ s.dmaPos + 1 = 2 * s.build.H
  · rw [if_pos ((nextPos_boundary_iff hH hp).2 hedge), kindAt_nextPos hH hp, storeBeat_frame, nextPos_eq hp]
    by_cases hpend : s.evPend = true
    · simp [complete, raise, Errors.set, hedge, hpend]
    · simp [complete, hedge, hpend]
  · rw [if_neg (mt (nextPos_boundary_iff hH hp).1 hedge), storeBeat_frame, nextPos_eq hp]
    simp [hedge]

end Sys2Proof.Machine
end

section
/-! The completion service and the tick (40_tick.md R201-R207): when a service runs a tick, which of the two routes the
tick takes, and the tick as a run of its phases. -/

namespace Sys2Proof.Machine

-- The service

theorem exec_serviceOf (k : EvKind) (s : State) : exec (serviceOf k) s = serviceCompletion k s := by
  cases k <;> rfl

/-- Without its completion pending a service is no step (R201; log 5). -/
theorem serviceCompletion_of_idle {k : EvKind} {s : State} (h : s.evPend = false ∨ s.evKind ≠ k) :
    serviceCompletion k s = .next s :=
  if_neg fun ⟨hpend, hkind⟩ => h.elim (Bool.eq_false_iff.1 · hpend) (· hkind)

/-- A service with its completion pending clears EVPEND, and in a session runs a tick (R201, R202). -/
theorem serviceCompletion_of_pending {k : EvKind} {s : State} (hpend : s.evPend = true) (hkind : s.evKind = k) :
    serviceCompletion k s =
      if s.run then tick { s with evPend := false } else .next { s with evPend := false } :=
  if_pos ⟨hpend, hkind⟩

theorem exec_serviceOf_due {k : EvKind} {s : State} (h : serviceDue k s) :
    exec (serviceOf k) s = tick { s with evPend := false } := by
  obtain ⟨hpend, hkind, hrun⟩ := h
  rw [exec_serviceOf, serviceCompletion_of_pending hpend hkind, if_pos hrun]

/-- Settles O34: a service with its completion pending, and no session. -/
theorem serviceWhileStoppedOnlyClearsPending : Obligations.ServiceWhileStoppedOnlyClearsPending := by
  intro s k hpend hkind hrun
  rw [exec_serviceOf, serviceCompletion_of_pending hpend hkind, hrun]
  rfl

-- Nothing to do

theorem muxPhase_of_not_muxed {s : State} (h : s.build.MUXED = false) : muxPhase s = s := by
  rw [muxPhase, h]
  rfl

theorem pushPhase_of_no_flow {s : State} (h : ∀ c < s.build.N, slotAt s.flow c = none) : pushPhase s = s := by
  obtain ⟨he, -⟩ | ⟨c, k, hc, hsome, -⟩ := pushPhase_cases s
  · exact he
  · rw [h c hc] at hsome
    cases hsome

/-- Settles O9: in each case the operation has nothing to work on. -/
theorem idleStepsChangeNothing : Obligations.IdleStepsChangeNothing := by
  refine fun s => ⟨fun hvalid hin => ?_, fun k hidle => ?_, fun hmuxed => ?_, fun hno => ?_⟩
  · simp only [step, if_pos hvalid, nextInput, hin]
  · rw [exec_serviceOf, serviceCompletion_of_idle hidle]
  · rw [exec, execMux, muxPhase_of_not_muxed hmuxed]
  · rw [exec, execQpush, pushPhase_of_no_flow hno]

-- The two routes of a tick

/-- The acquisition source keeps the build and the configuration, by which the tick takes its route (R204, R205). -/
theorem source_frame (s : State) :
    (acqPhase (isrPhase s)).build = s.build ∧ (acqPhase (isrPhase s)).cfg = s.cfg := by
  rw [acqPhase_frame, isrPhase_frame]
  exact ⟨rfl, rfl⟩

/-- The bypass route (R204). -/
theorem tick_of_bypass {s : State} (h : s.cfg.thresh.toInt < 0) :
    tick s = .next (endTick (sinkPhases (acqPhase (isrPhase s)))) := by
  unfold tick tickRoute
  rw [(source_frame s).2, if_pos h]

/-- The detector's route: the outcome of the tick is that of its DET phase (R203, R310). -/
theorem tick_of_detector {s : State} (h : ¬ s.cfg.thresh.toInt < 0) :
    tick s = mapNext (fun u => endTick (sinkPhases u)) (detPhase (dlPhase (acqPhase (isrPhase s)))) := by
  unfold tick tickRoute
  rw [(source_frame s).2, if_neg h]
  cases detPhase (dlPhase (acqPhase (isrPhase s))) <;> rfl

/-- Only a POLICY = 1 build has no detector (R310). -/
theorem detPhase_of_energy {s : State} (h : s.build.POLICY = .energy) : ∃ u, detPhase s = .next u := by
  unfold detPhase
  rw [h]
  by_cases hthresh : s.cfg.thresh.toInt < 0
  · exact ⟨_, if_pos hthresh⟩
  · exact ⟨_, if_neg hthresh⟩

/-- A tick has a next state unless it reaches the detector of a POLICY = 1 build (R206, R463). -/
theorem tick_completes {s : State} (h : s.cfg.thresh.toInt < 0 ∨ s.build.POLICY = .energy) :
    ∃ t, tick s = .next t := by
  by_cases hthresh : s.cfg.thresh.toInt < 0
  · exact ⟨_, tick_of_bypass hthresh⟩
  · have hpolicy : (dlPhase (acqPhase (isrPhase s))).build.POLICY = .energy := by
      rw [dlPhase_frame, (source_frame s).1]
      exact h.resolve_left hthresh
    obtain ⟨u, hu⟩ := detPhase_of_energy hpolicy
    rw [tick_of_detector hthresh, hu]
    exact ⟨_, rfl⟩

-- The tick as a run of its phases

theorem runInstrs_replicate_qpush (n : Nat) (s : State) :
    runInstrs (List.replicate n .qpush) s = .next (pushAll n s) := by
  induction n generalizing s with
  | zero => rfl
  | succ n ih => exact ih (pushPhase s)

/-- The sink of a build is a run of MUX, or of one QPUSH for each channel (R203, R205). -/
theorem runInstrs_sink {b : Build} {s : State} (h : s.build = b) :
    runInstrs (if b.MUXED then [.mux] else List.replicate b.N .qpush) s = .next (sinkPhases s) := by
  subst h
  unfold sinkPhases
  split
  · rfl
  · exact runInstrs_replicate_qpush _ _

/-- A tick runs its phases in order and leaves nothing in transit (R203-R205, R207). -/
theorem tick_eq_runInstrs (s : State) : tick s = mapNext endTick (runInstrs (tickPhases s) s) := by
  unfold tickPhases
  obtain ⟨hbuild, -⟩ := source_frame s
  by_cases hthresh : s.cfg.thresh.toInt < 0
  · rw [tick_of_bypass hthresh, if_pos hthresh]
    exact (congrArg (mapNext endTick) (runInstrs_sink hbuild)).symm
  · rw [tick_of_detector hthresh, if_neg hthresh]
    simp only [List.cons_append, List.nil_append, runInstrs, exec, execIsr, execAcq, execDl, execDet]
    cases hdet : detPhase (dlPhase (acqPhase (isrPhase s))) with
    | next u =>
      have hu : u.build = s.build := by
        obtain ⟨hkeep, -, -⟩ := phase_frame (detPhase_effect hdet)
        rw [hkeep, dlPhase_frame, hbuild]
      simp only [runInstrs_sink hu, mapNext]
    | fault e => rfl
    | refused r => rfl

/-- Settles O35: the service runs a tick, and a tick is the run of its phases. -/
theorem serviceRunsThePhasesInOrder : Obligations.ServiceRunsThePhasesInOrder := by
  intro s k hdue
  rw [exec_serviceOf_due hdue, tick_eq_runInstrs]
  rfl

end Sys2Proof.Machine
end

section
/-! What no tick changes (40_tick.md R204, R206, 20_memory.md R107): the elements that no phase writes, and every byte
below the pool window. -/

namespace Sys2Proof.Machine

-- The elements that no phase writes

/-- The elements of state that no phase of a tick writes: the build, RUN, the configuration, RESULT, p, EVPEND, EVKIND
and what the model keeps of the host's side (logs 3, 9, 12). -/
def outsideTick (s : State) : Build × Bool × Cfg × Word × Nat × Bool × EvKind × Word × Nat × List Input :=
  (s.build, s.run, s.cfg, s.result, s.dmaPos, s.evPend, s.evKind, s.rdata, s.boots, s.inputs)

theorem phase_outsideTick {s t : State} {i : Instr} (h : PhaseEffect s i t) : outsideTick t = outsideTick s := by
  cases h with
  | isr => rw [isrPhase_frame]; rfl
  | acq => rw [acqPhase_frame]; rfl
  | dl => rw [dlPhase_frame]; rfl
  | discarded => rw [discardFlow_frame]; rfl
  | detected => rw [detUpdate_frame]; rfl
  | mux => rw [muxPhase_frame]; rfl
  | qpush => rw [pushPhase_frame]; rfl

theorem tick_outsideTick {s t : State} (h : tick s = .next t) : outsideTick t = outsideTick s :=
  tick_keeps (P := fun u => outsideTick u = outsideTick s) (fun he hu => (phase_outsideTick he).trans hu) id h rfl

/-- A tick ends with nothing in transit (R207). -/
theorem tick_quiet {s t : State} (h : tick s = .next t) : Quiet t := by
  obtain rfl | ⟨u, -, rfl⟩ := tick_cases h <;> exact ⟨rfl, rfl⟩

/-- The bypass route touches neither the delay line nor a register of the detector (R204, R308). -/
theorem tick_bypass_frame {s t : State} (h : s.cfg.thresh.toInt < 0) (ht : tick s = .next t) :
    t.det = s.det ∧ t.chans = s.chans ∧ t.dlSlot = s.dlSlot ∧ t.dlHead = s.dlHead := by
  rw [tick_of_bypass h] at ht
  cases ht
  rw [endTick, sinkPhases_frame, acqPhase_frame, isrPhase_frame]
  exact ⟨rfl, rfl, rfl, rfl⟩

-- Memory

section
variable {P : Memory → Prop}

theorem foldl_keeps_memory {α : Type} {f : State → α → State} (hf : ∀ s x, P s.mem → P (f s x).mem) (xs : List α)
    {s : State} (h : P s.mem) : P (xs.foldl f s).mem :=
  List.foldlRecOn (motive := fun u : State => P u.mem) xs f h fun u hu x _ => hf u x hu

variable (hwrite : ∀ (h i : Nat) (v : Sample) (s : State), P s.mem → P (writeSample h i v s).mem)
include hwrite

theorem demuxChannel_keeps_memory (c : Nat) {s : State} (h : P s.mem) : P (demuxChannel s c).mem := by
  unfold demuxChannel
  split
  · exact h
  · exact foldl_keeps_memory (fun u _ => hwrite _ _ _ u) _ h

theorem muxWriteBlock_keeps_memory (bh : Handle × Nat) {s : State} (h : P s.mem) : P (muxWriteBlock s bh).mem :=
  foldl_keeps_memory (fun u _ => hwrite _ _ _ u) _ h

theorem muxEmit_keeps_memory (os : List Handle) {s : State} (h : P s.mem) : P (muxEmit os s).mem := by
  unfold muxEmit
  rw [muxEmpty_frame, pushEach_frame]
  exact foldl_keeps_memory (fun _ bh => muxWriteBlock_keeps_memory hwrite bh) _ h

theorem muxFrame_keeps_memory {s : State} (h : P s.mem) : P (muxFrame s).mem := by
  obtain he | he | he := muxFrame_cases s <;> rw [he]
  · exact h
  · rw [muxPoolFailed, muxEmpty_frame]
    exact h
  · refine muxEmit_keeps_memory hwrite _ ?_
    rw [allocEach_frame]
    exact h

/-- The phases write memory by samples of the pool alone: what every such write keeps, a phase keeps. -/
theorem phase_keeps_memory {s t : State} {i : Instr} (he : PhaseEffect s i t) (h : P s.mem) : P t.mem := by
  cases he with
  | isr =>
    unfold isrPhase
    split
    · exact foldl_keeps_memory (fun _ c => demuxChannel_keeps_memory hwrite c) _ h
    · exact h
  | acq => rw [acqPhase_frame]; exact h
  | dl => rw [dlPhase_frame]; exact h
  | discarded => rw [discardFlow_frame]; exact h
  | detected => rw [detUpdate_frame]; exact h
  | mux =>
    unfold muxPhase
    split
    · refine muxFrame_keeps_memory hwrite ?_
      rw [muxAcceptAll_frame]
      exact h
    · exact h
  | qpush => rw [pushPhase_frame]; exact h

end

/-- Two memories hold the same written bytes below the pool window. -/
def SameBelowPool (m m' : Memory) : Prop := ∀ a < 0x8000, memFind m' a = memFind m a

theorem writeSample_sameBelowPool {m : Memory} (h i : Nat) (v : Sample) (s : State) (hm : SameBelowPool m s.mem) :
    SameBelowPool m (writeSample h i v s).mem := fun a ha => by
  have hbelow (g : Nat) : a < plinAddr g := by
    unfold plinAddr
    omega
  simp only [writeSample, writeHalf, writeByte]
  rw [memFind_memWrite_other _ _ _ _ (Nat.lt_succ_of_lt (hbelow _)).ne,
    memFind_memWrite_other _ _ _ _ (hbelow _).ne, hm a ha]

/-- A tick writes no byte below the pool window. -/
theorem tick_sameBelowPool {s t : State} (h : tick s = .next t) : SameBelowPool s.mem t.mem :=
  tick_keeps (P := fun u => SameBelowPool s.mem u.mem) (phase_keeps_memory writeSample_sameBelowPool) id h
    fun _ _ => rfl

/-- Settles O36: the service runs a tick, which completes; its frame is that of its phases. -/
theorem ticksCompleteAndKeepTheRest : Obligations.TicksCompleteAndKeepTheRest := by
  intro s k hdue hmeaning
  obtain ⟨t, ht⟩ := tick_completes (s := { s with evPend := false }) hmeaning
  have hout := tick_outsideTick ht
  simp only [outsideTick, Prod.mk.injEq] at hout
  obtain ⟨hbuild, hrun, hcfg, hresult, hpos, hpend, hkind, hrdata, hboots, hinputs⟩ := hout
  have hquiet : Quiet t := tick_quiet ht
  rw [Quiet, hbuild] at hquiet
  have hbytes (a : Nat) (ha : a < 0x8000) : readByte t a = readByte s a := by
    rw [readByte, readByte, hboots, tick_sameBelowPool ht a ha]
  have hroute (hbypass : s.cfg.thresh.toInt < 0) :
      t.det = s.det ∧ t.chans = s.chans ∧ t.dlSlot = s.dlSlot ∧ t.dlHead = s.dlHead :=
    tick_bypass_frame (s := { s with evPend := false }) hbypass ht
  exact ⟨t, (exec_serviceOf_due hdue).trans ht, hpend, hbuild, hrun, hcfg, hresult, hpos, hkind, hrdata, hboots,
    hinputs, hquiet.1, hquiet.2, hroute, hbytes⟩

end Sys2Proof.Machine
end

section
/-! The ISR demultiplex (41_acquisition.md R230-R234): while it runs, the words of the finished half stay as they are; each
sample of a current block is written with its converted word, and no other byte is. -/

namespace Sys2Proof.Machine

-- The source: converted raw words

/-- The arithmetic shift of R232 is a division that rounds down. -/
theorem convSample_eq_ofInt_div (shift : BitVec 5) (w : Word) :
    convSample shift w = BitVec.ofInt 16 (w.toInt / 2 ^ shift.toNat) := by
  rw [convSample, ← BitVec.signExtend_eq_setWidth_of_le _ (by decide), BitVec.signExtend, BitVec.toInt_sshiftRight,
    Int.shiftRight_eq_div_pow, Nat.cast_pow, Nat.cast_ofNat]

/-- Every word of the finished half lies in the raw window (R104, R231). -/
theorem rawIndex_lt {s : State} (hvalid : buildValid s.build = true) {c i : Nat} (hc : c < s.build.N)
    (hi : i < s.build.L) : rawIndex s c i < 4096 := by
  obtain ⟨-, -, -, -, -, -, -, -, -, -, -, hframe, -⟩ := (buildValid_iff s.build).1 hvalid
  have hrow : (i + 1) * s.build.N ≤ s.build.L * s.build.N := Nat.mul_le_mul_right _ hi
  rw [Nat.add_mul, Nat.one_mul] at hrow
  have hbase : halfBase s ≤ s.build.L * s.build.N := by
    unfold halfBase
    split
    · exact le_rfl
    · exact Nat.zero_le _
  unfold rawIndex
  omega

theorem rawWord_of_sameBelowPool {s t : State} (hmem : SameBelowPool s.mem t.mem) (hboots : t.boots = s.boots) {j : Nat}
    (hj : j < 4096) : rawWord t j = rawWord s j := by
  have hbyte (a : Nat) (ha : a < 0x8000) : readByte t a = readByte s a := by
    rw [readByte, readByte, hboots, hmem a ha]
  simp only [rawWord, readFull, readHalf, rawAddr]
  rw [hbyte _ (by omega), hbyte _ (by omega), hbyte _ (by omega), hbyte _ (by omega)]

/-- What the ISR writes into sample i of channel c's block (R230, R232). -/
def isrSample (s : State) (c i : Nat) : Sample := convSample s.cfg.shift (rawWord s (rawIndex s c i))

-- The target: samples of the pool

/-- Samples of different blocks, and different samples of a block, stand at different places of the pool (R106). -/
theorem sampleIndex_inj {n h h' i i' : Nat} (hi : i < n) (hi' : i' < n) (e : h * n + i = h' * n + i') :
    h = h' ∧ i = i' := by
  have hn : 0 < n := Nat.zero_lt_of_lt hi
  have hunique := (Nat.div_mod_unique hn).2 ⟨show i + n * h = h' * n + i' by rw [← e]; ring, hi⟩
  have hunique' := (Nat.div_mod_unique hn).2 ⟨show i' + n * h' = h' * n + i' by ring, hi'⟩
  exact ⟨hunique.1.symm.trans hunique'.1, hunique.2.symm.trans hunique'.2⟩

theorem poolSample_writeSample_same (h i : Nat) (v : Sample) (s : State) : poolSample (writeSample h i v s) h i = v :=
  plin_writeHalf_same _ v s

theorem poolSample_writeSample_other {h i k : Nat} (v : Sample) (s : State) (hk : k ≠ i) :
    poolSample (writeSample h k v s) h i = poolSample s h i :=
  plin_writeHalf_other _ _ v s fun e => hk (Nat.add_left_cancel e).symm

theorem readByte_writeSample_other {h i a : Nat} (v : Sample) (s : State)
    (ha : a ≠ plinAddr (h * s.build.L + i) ∧ a ≠ plinAddr (h * s.build.L + i) + 1) :
    readByte (writeSample h i v s) a = readByte s a := by
  rw [writeSample, readByte_writeHalf, if_neg ha.2, if_neg ha.1]

-- The copy

/-- A property that one element of a list establishes, and no other breaks, holds after a fold over the list. -/
theorem foldl_establishes {σ α : Type} {f : σ → α → σ} {I P : σ → Prop} {x : α} {xs : List α} (hx : x ∈ xs)
    (hinv : ∀ s, ∀ y ∈ xs, I s → I (f s y)) (hset : ∀ s, I s → P (f s x))
    (hkeep : ∀ s, ∀ y ∈ xs, y ≠ x → I s → P s → P (f s y)) {s : σ} (hs : I s) : P (xs.foldl f s) := by
  obtain ⟨before, after, rfl⟩ := List.append_of_mem hx
  rw [List.foldl_append, List.foldl_cons]
  have hbefore : I (before.foldl f s) :=
    List.foldlRecOn before f hs fun t ht y hy => hinv t y (List.mem_append_left _ hy) ht
  refine (List.foldlRecOn (motive := fun t => I t ∧ P t) after f ⟨hinv _ x hx hbefore, hset _ hbefore⟩
    fun t ⟨hi, hp⟩ y hy => ?_).2
  have hy' : y ∈ before ++ x :: after := List.mem_append_right _ (List.mem_cons_of_mem _ hy)
  refine ⟨hinv t y hy' hi, ?_⟩
  by_cases he : y = x
  · exact he ▸ hset t hi
  · exact hkeep t y hy' he hi hp

/-- The ISR that began in s has come to t: it has written memory alone, and nothing below the pool window (R107). -/
def DuringIsr (s t : State) : Prop := t = { s with mem := t.mem } ∧ SameBelowPool s.mem t.mem

theorem duringIsr_refl (s : State) : DuringIsr s s := ⟨rfl, fun _ _ => rfl⟩

section
variable {s t : State} (ht : DuringIsr s t)
include ht

theorem DuringIsr.build : t.build = s.build := by rw [ht.1]

theorem DuringIsr.acqCur : t.acqCur = s.acqCur := by rw [ht.1]

theorem DuringIsr.afterSample (c h i : Nat) : DuringIsr s (demuxSample c h t i) := by
  refine ⟨?_, writeSample_sameBelowPool h i _ t ht.2⟩
  have hframe : demuxSample c h t i = { t with mem := (demuxSample c h t i).mem } := rfl
  rw [hframe, ht.1]

theorem DuringIsr.afterChannel (c : Nat) : DuringIsr s (demuxChannel t c) := by
  refine ⟨?_, demuxChannel_keeps_memory writeSample_sameBelowPool c ht.2⟩
  rw [demuxChannel_frame, ht.1]

/-- The source is not written while the ISR runs, so that every sample is converted from the half as it was. -/
theorem DuringIsr.isrSample_eq {c i : Nat} (hj : rawIndex s c i < 4096) : isrSample t c i = isrSample s c i := by
  have hindex : rawIndex t c i = rawIndex s c i := by rw [ht.1]; rfl
  have hcfg : t.cfg = s.cfg := by rw [ht.1]
  have hboots : t.boots = s.boots := by rw [ht.1]
  rw [isrSample, isrSample, hindex, hcfg, rawWord_of_sameBelowPool ht.2 hboots hj]

/-- A channel's turn fills its current block (R230). -/
theorem DuringIsr.poolSample_afterChannel {c i : Nat} {h : Handle} (hvalid : buildValid s.build = true)
    (hc : c < s.build.N) (hi : i < s.build.L) (hcur : slotAt s.acqCur c = some h) :
    poolSample (demuxChannel t c) h i = isrSample s c i := by
  unfold demuxChannel
  rw [ht.acqCur, hcur, ht.build]
  refine foldl_establishes (I := DuringIsr s) (P := fun u => poolSample u h i = isrSample s c i)
    (List.mem_range.2 hi) (fun u k _ hu => hu.afterSample c h k) (fun u hu => ?_) (fun u k _ hk _ hp => ?_) ht
  · exact (poolSample_writeSample_same h i _ u).trans (hu.isrSample_eq (rawIndex_lt hvalid hc hi))
  · exact (poolSample_writeSample_other _ u hk).trans hp

end

/-- A channel's turn writes no byte outside its current block (R230). -/
theorem readByte_demuxChannel_other {t : State} {c a : Nat}
    (ha : ∀ h i, slotAt t.acqCur c = some h → i < t.build.L →
      a ≠ plinAddr (h * t.build.L + i) ∧ a ≠ plinAddr (h * t.build.L + i) + 1) :
    readByte (demuxChannel t c) a = readByte t a := by
  unfold demuxChannel
  split
  · rfl
  · rename_i h hcur
    refine (List.foldlRecOn (motive := fun u => DuringIsr t u ∧ readByte u a = readByte t a) _ _
      ⟨duringIsr_refl t, rfl⟩ fun u ⟨hu, hbyte⟩ i hi => ⟨hu.afterSample c h i, ?_⟩).2
    refine (readByte_writeSample_other _ u ?_).trans hbyte
    rw [hu.build]
    exact ha h i hcur (List.mem_range.1 hi)

/-- A channel's turn leaves every other block as it is. -/
theorem poolSample_demuxChannel_other {t : State} {c i h : Nat} (hi : i < t.build.L)
    (hcur : slotAt t.acqCur c ≠ some h) : poolSample (demuxChannel t c) h i = poolSample t h i := by
  have hplace {k j : Nat} (hk : slotAt t.acqCur c = some k) (hj : j < t.build.L) :
      h * t.build.L + i ≠ k * t.build.L + j := fun e => hcur ((sampleIndex_inj hi hj e).1 ▸ hk)
  have hbuild : (demuxChannel t c).build = t.build := by rw [demuxChannel_frame]
  rw [poolSample, poolSample, hbuild, plin, plin, readHalf, readHalf, readByte_demuxChannel_other,
    readByte_demuxChannel_other]
  all_goals
    intro k j hk hj
    have := hplace hk hj
    unfold plinAddr
    omega

-- The current slots

theorem getElem?_of_slotAt {xs : List Slot} {c : Nat} {h : Handle} (hc : slotAt xs c = some h) :
    xs[c]? = some (some h) := by
  rw [slotAt, List.getD_eq_getElem?_getD] at hc
  cases hx : xs[c]? with
  | none => rw [hx] at hc; cases hc
  | some o => rw [hx] at hc; exact congrArg some hc

theorem mem_of_slotAt {xs : List Slot} {c : Nat} {h : Handle} (hc : slotAt xs c = some h) : some h ∈ xs :=
  List.mem_of_getElem? (getElem?_of_slotAt hc)

/-- No block is in two of the current slots. -/
theorem slotAt_inj {xs : List Slot} (hnodup : xs.Nodup) {c c' : Nat} {h : Handle} (hc : slotAt xs c = some h)
    (hc' : slotAt xs c' = some h) : c = c' := by
  have hx := getElem?_of_slotAt hc
  exact (List.getElem?_inj (List.getElem?_eq_some_iff.1 hx).1 hnodup).1 (hx.trans (getElem?_of_slotAt hc').symm)

-- The phase

theorem isrPhase_of_none {s : State} (h : slotAt s.acqCur 0 = none) : isrPhase s = s :=
  if_neg (by rw [acqHave, ← slotAt, h]; exact Bool.false_ne_true)

theorem isrPhase_of_current {s : State} (h : (slotAt s.acqCur 0).isSome = true) :
    isrPhase s = { (List.range s.build.N).foldl demuxChannel s with acqOff := s.build.L } := if_pos h

/-- After all channels' turns every current block holds its channel of the finished half (R230, R234). -/
theorem poolSample_demux {s : State} {c i : Nat} {h : Handle} (hvalid : buildValid s.build = true)
    (hnodup : s.acqCur.Nodup) (hc : c < s.build.N) (hi : i < s.build.L) (hcur : slotAt s.acqCur c = some h) :
    poolSample ((List.range s.build.N).foldl demuxChannel s) h i = isrSample s c i := by
  refine foldl_establishes (I := DuringIsr s) (P := fun u => poolSample u h i = isrSample s c i)
    (List.mem_range.2 hc) (fun u k _ hu => hu.afterChannel k)
    (fun u hu => hu.poolSample_afterChannel hvalid hc hi hcur) (fun u k _ hk hu hp => ?_) (duringIsr_refl s)
  refine (poolSample_demuxChannel_other (hu.build ▸ hi) fun hother => hk ?_).trans hp
  exact slotAt_inj hnodup (hu.acqCur ▸ hother) hcur

/-- The copy writes no byte outside the current blocks (R230). -/
theorem readByte_demux_other {s : State} {a : Nat}
    (ha : ∀ h i, some h ∈ s.acqCur → i < s.build.L →
      a ≠ plinAddr (h * s.build.L + i) ∧ a ≠ plinAddr (h * s.build.L + i) + 1) :
    readByte ((List.range s.build.N).foldl demuxChannel s) a = readByte s a := by
  refine (List.foldlRecOn (motive := fun u => DuringIsr s u ∧ readByte u a = readByte s a) _ _
    ⟨duringIsr_refl s, rfl⟩ fun u ⟨hu, hbyte⟩ c _ => ⟨hu.afterChannel c, ?_⟩).2
  refine (readByte_demuxChannel_other fun h i hcur hi => ?_).trans hbyte
  rw [hu.build] at hi ⊢
  exact ha h i (mem_of_slotAt (hu.acqCur ▸ hcur)) hi

/-- Settles O38: the memory is that of the copy, which fills each current block and writes nothing else. -/
theorem isrDemultiplexesTheFinishedHalf : Obligations.IsrDemultiplexesTheFinishedHalf := by
  refine ⟨Laws.RoundTrip.isr rfl, fun s => ⟨fun hnone => ?_, fun hhave hvalid _ hnodup _ => ?_⟩⟩
  · rw [exec, execIsr, isrPhase_of_none hnone]
  · refine ⟨((List.range s.build.N).foldl demuxChannel s).mem, ?_, fun c i h hc hi hcur => ?_, fun a ha => ?_⟩
    · rw [exec, execIsr, isrPhase_of_current hhave, demux_frame]
    · rw [← demux_frame, poolSample_demux hvalid hnodup hc hi hcur]
      exact convSample_eq_ofInt_div _ _
    · rw [← demux_frame]
      exact readByte_demux_other ha

end Sys2Proof.Machine
end

section
/-! The acquisition update (41_acquisition.md R233, R235, R236): which blocks an allocation of several takes, and the current
slots renewed all or nothing. -/

namespace Sys2Proof.Machine

-- What allocations take

theorem tookBlocks_nil (f : List Bool) : tookBlocks f [] f := by simp [tookBlocks]

/-- A free block taken, and then others out of what is left free. -/
theorem tookBlocks_cons {f f' : List Bool} {h : Handle} {hs : List Handle} (hlt : h < f.length)
    (hfree : f.getD h false = true) (htook : tookBlocks (f.set h false) hs f') : tookBlocks f (h :: hs) f' := by
  obtain ⟨hnodup, hbefore, hlen, hafter⟩ := htook
  have hbit (k : Nat) : (f.set h false).getD k false = (f.getD k false && !(k == h)) := by
    rw [getD_set]
    by_cases hk : k = h <;> simp [hk, hlt]
  have hrest {k : Nat} (hk : k ∈ hs) : f.getD k false = true ∧ k ≠ h := by
    have := (hbefore k hk).2
    rw [hbit] at this
    simpa using this
  refine ⟨List.nodup_cons.2 ⟨fun hm => (hrest hm).2 rfl, hnodup⟩, fun k hk => ?_, by simpa using hlen, fun k => ?_⟩
  · obtain rfl | hk := List.mem_cons.1 hk
    · exact ⟨hlt, hfree⟩
    · exact ⟨by simpa using (hbefore k hk).1, (hrest hk).1⟩
  · rw [hafter, hbit, List.contains_cons, Bool.not_or, Bool.and_assoc]

/-- Allocations one after another take different blocks, each free before, and no other (R110, R111), whatever
ALLOC_CHOICE is (R11). -/
theorem allocEach_tookBlocks (n : Nat) (s : State) :
    tookBlocks s.free (allocEach n s).1 (allocEach n s).2.free := by
  induction n generalizing s with
  | zero => exact tookBlocks_nil s.free
  | succ n ih =>
    unfold allocEach
    split
    · exact tookBlocks_nil s.free
    · rename_i h s' hsome
      obtain ⟨hlt, hfree, hs'⟩ := allocBlock_spec s s' h hsome
      have hset : s'.free = s.free.set h false := by rw [hs']
      exact tookBlocks_cons hlt hfree (hset ▸ ih s')

-- The renewal

/-- With N blocks free, the current slots get N of them (R233). -/
theorem renewCurrent_of_enough {s : State} (h : s.build.N ≤ s.free.count true) :
    ∃ (hs : List Handle) (f : List Bool) (k : Nat),
      renewCurrent s = { s with acqCur := hs.map some, acqOff := 0, free := f, draws := k } ∧
        hs.length = s.build.N ∧ tookBlocks s.free hs f := by
  obtain ⟨hshort, -⟩ | ⟨-, he, hlen⟩ := allocN_cases s.build.N s
  · exact absurd hshort (not_lt.2 h)
  · refine ⟨_, (allocEach s.build.N s).2.free, (allocEach s.build.N s).2.draws, ?_, hlen, allocEach_tookBlocks _ s⟩
    unfold renewCurrent
    rw [he]
    simp only
    rw [allocEach_frame]

/-- With fewer blocks free, none is taken, and the failure is recorded (R236). -/
theorem renewCurrent_of_short {s : State} (h : s.free.count true < s.build.N) : renewCurrent s = allocFailed s := by
  obtain ⟨-, he⟩ | ⟨henough, -⟩ := allocN_cases s.build.N s
  · unfold renewCurrent
    rw [he]
  · exact absurd henough (not_le.2 h)

-- The three cases of the update

/-- The current blocks are filled: they go on as the live blocks, and the emptied slots are renewed (R233). -/
theorem acqPhase_of_filled {s : State} (hhave : (slotAt s.acqCur 0).isSome = true) (hfull : s.acqOff = s.build.L) :
    acqPhase s =
      { renewCurrent { s with acqCur := noBlocks s.build.N, acqOff := 0 } with live := s.acqCur, flow := s.acqCur } :=
  if_pos ⟨hhave, hfull⟩

/-- There are no current blocks: the slots are renewed, and no block is live (R233). -/
theorem acqPhase_of_none {s : State} (hnone : slotAt s.acqCur 0 = none) :
    acqPhase s = { renewCurrent s with live := noBlocks s.build.N, flow := noBlocks s.build.N } := by
  have hhave : acqHave s = false := by rw [acqHave, ← slotAt, hnone]; rfl
  rw [acqPhase, hhave, if_neg (by simp), if_pos rfl]

/-- The current blocks are not filled: they stay, and no block is live (R233). -/
theorem acqPhase_of_unfilled {s : State} (hhave : (slotAt s.acqCur 0).isSome = true) (hoff : s.acqOff ≠ s.build.L) :
    acqPhase s = { s with live := noBlocks s.build.N, flow := noBlocks s.build.N } := by
  have hhave' : acqHave s = true := hhave
  rw [acqPhase, if_neg fun hfull => hoff hfull.2, if_neg (by simp [hhave'])]

/-- Settles O39: each case of the update, with an allocation that succeeds or fails by the number of free blocks. -/
theorem acquisitionSwapsAllOrNothing : Obligations.AcquisitionSwapsAllOrNothing := by
  refine ⟨Laws.RoundTrip.acq rfl, fun s => ⟨fun hhave hfull => ⟨fun henough => ?_, fun hshort => ?_⟩,
    fun hnone => ⟨fun henough => ?_, fun hshort => ?_⟩, fun hhave hoff => ?_⟩⟩
  · obtain ⟨hs, f, k, he, hlen, htook⟩ :=
      renewCurrent_of_enough (s := { s with acqCur := noBlocks s.build.N, acqOff := 0 }) henough
    refine ⟨hs, f, k, ?_, hlen, htook⟩
    rw [exec, execAcq, acqPhase_of_filled hhave hfull, he]
  · rw [exec, execAcq, acqPhase_of_filled hhave hfull,
      renewCurrent_of_short (s := { s with acqCur := noBlocks s.build.N, acqOff := 0 }) hshort]
    rfl
  · obtain ⟨hs, f, k, he, hlen, htook⟩ := renewCurrent_of_enough henough
    refine ⟨hs, f, k, ?_, hlen, htook⟩
    rw [exec, execAcq, acqPhase_of_none hnone, he]
    rfl
  · rw [exec, execAcq, acqPhase_of_none hnone, renewCurrent_of_short hshort]
    rfl
  · rw [exec, execAcq, acqPhase_of_unfilled hhave hoff]
    rfl

end Sys2Proof.Machine
end

section
/-! The delay line (42_delay_line.md R261, R262, R264): one update, and the DELAY tuples that wait in it, each in the
slot from which a coming update emits it. -/

namespace Sys2Proof.Machine

-- One update

/-- The delay line is no pass-through (R261). -/
def Delays (s : State) : Prop := 0 < s.cfg.delay.toInt ∧ s.cfg.delay.toInt < (s.build.DCAP : Int)

theorem passThrough_iff_not_delays (s : State) : passThrough s = true ↔ ¬ Delays s := by
  rw [passThrough, decide_eq_true_iff, Delays]
  omega

theorem dlPhase_of_not_delays {s : State} (h : ¬ Delays s) : dlPhase s = s :=
  if_pos ((passThrough_iff_not_delays s).2 h)

/-- The store, the advance and the emission of R262. -/
theorem dlPhase_of_delays {s : State} (h : Delays s) :
    dlPhase s =
      { s with
        dlHead := dlNextHead s
        dlSlot := (List.range s.build.N).map fun c => (dlStored s c).set (dlOutIndex s) none
        flow := (List.range s.build.N).map fun c => slotAt (dlStored s c) (dlOutIndex s)
        free := (releaseAll ((List.range s.build.N).map fun c => slotAt (dlRow s c) (dlNextHead s)) s).free } := by
  rw [dlPhase, if_neg fun hpass => (passThrough_iff_not_delays s).1 hpass h]
  simp only
  rw [releaseAll_frame]

theorem Delays.toNat_bounds {s : State} (h : Delays s) :
    (s.cfg.delay.toNat : Int) = s.cfg.delay.toInt ∧ 0 < s.cfg.delay.toNat ∧ s.cfg.delay.toNat < s.build.DCAP := by
  obtain ⟨hpos, hcap⟩ := h
  have hcast : (s.cfg.delay.toNat : Int) = s.cfg.delay.toInt :=
    (BitVec.toInt_eq_toNat_of_lt (BitVec.toInt_pos_iff.1 hpos.le)).symm
  omega

/-- The slot handed on is (h - DELAY) mod DCAP (R262). -/
theorem dlOutIndex_eq_emod {s : State} (h : Delays s) :
    (dlOutIndex s : Int) = ((dlNextHead s : Int) - s.cfg.delay.toInt) % (s.build.DCAP : Int) := by
  obtain ⟨hcast, -, hcap⟩ := h.toNat_bounds
  rw [dlOutIndex, Int.natCast_emod, ← hcast, Nat.cast_sub (by omega), Nat.cast_add,
    ← sub_add_eq_add_sub, Int.add_emod_right]

/-- Releases free just the blocks of the list. -/
theorem releasedBlocks_releaseAll (os : List Slot) (s : State) :
    releasedBlocks s.free (fun k => some k ∈ os) (releaseAll os s).free := by
  refine ⟨releaseAll_free_length os s, fun k => ?_⟩
  rw [releaseAll_free_getD, Bool.or_eq_true, decide_eq_true_iff, and_comm]

/-- Settles O40: the two arms of R262. -/
theorem delayLineStoresAndEmits : Obligations.DelayLineStoresAndEmits := by
  refine ⟨Laws.RoundTrip.dl rfl, fun s => ⟨fun hpass => ?_, fun hpos hcap t ht => ?_⟩⟩
  · rw [exec, execDl, dlPhase_of_not_delays fun ⟨hpos, hcap⟩ => by omega]
  · have hout : dlOutIndex s = t := Int.ofNat_inj.1 ((dlOutIndex_eq_emod ⟨hpos, hcap⟩).trans ht.symm)
    refine ⟨(releaseAll ((List.range s.build.N).map fun c => slotAt (dlRow s c) (dlNextHead s)) s).free, ?_, ?_⟩
    · rw [exec, execDl, dlPhase_of_delays ⟨hpos, hcap⟩, hout]
      rfl
    · have hreleased :=
        releasedBlocks_releaseAll ((List.range s.build.N).map fun c => slotAt (dlRow s c) (dlNextHead s)) s
      simp only [List.mem_map, List.mem_range] at hreleased
      exact hreleased

-- The tuples that wait

/-- The slot whose block leaves at the i-th update from now, counted from 0. -/
def waitingSlot (s : State) (i : Nat) : Nat :=
  (s.dlHead + 1 + s.build.DCAP - s.cfg.delay.toNat + i) % s.build.DCAP

theorem waitingSlot_inj {s : State} {i j : Nat} (hi : i < s.build.DCAP) (hj : j < s.build.DCAP)
    (h : waitingSlot s i = waitingSlot s j) : i = j :=
  (Nat.ModEq.add_left_cancel' _ h).eq_of_lt_of_lt hi hj

/-- The next update emits from the slot that leaves first. -/
theorem dlOutIndex_eq_waitingSlot {s : State} (h : Delays s) : dlOutIndex s = waitingSlot s 0 := by
  obtain ⟨-, -, hcap⟩ := h.toNat_bounds
  rw [dlOutIndex, waitingSlot, dlNextHead, Nat.add_sub_assoc hcap.le, Nat.add_sub_assoc hcap.le, Nat.mod_add_mod]
  rfl

/-- What the next update stores leaves DELAY updates later. -/
theorem dlNextHead_eq_waitingSlot {s : State} (h : Delays s) : dlNextHead s = waitingSlot s s.cfg.delay.toNat := by
  obtain ⟨-, -, hcap⟩ := h.toNat_bounds
  rw [dlNextHead, waitingSlot, Nat.sub_add_cancel (by omega), Nat.add_mod_right]

theorem waitingSlot_dlPhase {s : State} (h : Delays s) (i : Nat) :
    waitingSlot (dlPhase s) i = waitingSlot s (i + 1) := by
  obtain ⟨-, -, hcap⟩ := h.toNat_bounds
  rw [dlPhase_of_delays h]
  simp only [waitingSlot, dlNextHead]
  rw [show (s.dlHead + 1) % s.build.DCAP + 1 + s.build.DCAP - s.cfg.delay.toNat + i =
      (s.dlHead + 1) % s.build.DCAP + (1 + s.build.DCAP - s.cfg.delay.toNat + i) by omega, Nat.mod_add_mod]
  congr 1
  omega

theorem dlRow_dlPhase {s : State} (h : Delays s) {c : Nat} (hc : c < s.build.N) :
    dlRow (dlPhase s) c = (dlStored s c).set (dlOutIndex s) none := by
  rw [dlPhase_of_delays h]
  simp [dlRow, hc]

/-- The DELAY tuples given last, the oldest first, stand in the slots that leave next. -/
structure Waits (w : List (List Slot)) (s : State) : Prop where
  delays : Delays s
  rows : ∀ c < s.build.N, (dlRow s c).length = s.build.DCAP
  count : w.length = s.cfg.delay.toNat
  tuples : ∀ x ∈ w, x.length = s.build.N
  held : ∀ c < s.build.N, ∀ i x, w[i]? = some x → slotAt (dlRow s c) (waitingSlot s i) = slotAt x c

/-- What is given to the delay line does not stand in it yet. -/
theorem Waits.withFlow {w : List (List Slot)} {s : State} (h : Waits w s) (x : List Slot) :
    Waits w { s with flow := x } :=
  ⟨h.delays, h.rows, h.count, h.tuples, h.held⟩

/-- In an empty delay line tuples without a block wait. -/
theorem waits_of_empty {s : State} (h : Delays s)
    (hempty : s.dlSlot = List.replicate s.build.N (noBlocks s.build.DCAP)) :
    Waits (List.replicate s.cfg.delay.toNat (noBlocks s.build.N)) s := by
  have hrow {c : Nat} (hc : c < s.build.N) : dlRow s c = noBlocks s.build.DCAP := by
    rw [dlRow, hempty, List.getD_replicate _ hc]
  refine ⟨h, fun c hc => ?_, List.length_replicate, fun x hx => ?_, fun c hc i x hx => ?_⟩
  · rw [hrow hc, noBlocks, List.length_replicate]
  · rw [List.eq_of_mem_replicate hx, noBlocks, List.length_replicate]
  · rw [hrow hc, slotAt_noBlocks, List.eq_of_mem_replicate (List.mem_of_getElem? hx), slotAt_noBlocks]

section
variable {s : State} {x : List Slot} {w : List (List Slot)} (h : Waits (x :: w) s)
include h

/-- The store does not reach a tuple that waits, because the slot it reaches is the one DELAY < DCAP updates ahead. -/
theorem Waits.slotAt_dlStored {c i : Nat} {y : List Slot} (hc : c < s.build.N) (hy : (x :: w)[i]? = some y) :
    slotAt (dlStored s c) (waitingSlot s i) = slotAt y c := by
  obtain ⟨-, -, hcap⟩ := h.delays.toNat_bounds
  have hi : i < s.cfg.delay.toNat := h.count ▸ (List.getElem?_eq_some_iff.1 hy).1
  rw [dlStored, slotAt_set, if_neg, h.held c hc i y hy]
  rw [dlNextHead_eq_waitingSlot h.delays]
  exact fun hat => hi.ne (waitingSlot_inj (hi.trans hcap) hcap hat.1)

/-- The input is stored in the slot that leaves DELAY updates later. -/
theorem Waits.slotAt_dlStored_input {c : Nat} (hc : c < s.build.N) :
    slotAt (dlStored s c) (waitingSlot s s.cfg.delay.toNat) = slotAt s.flow c := by
  obtain ⟨-, -, hcap⟩ := h.delays.toNat_bounds
  have hhead : dlNextHead s < (dlRow s c).length := by
    rw [h.rows c hc]
    exact Nat.mod_lt _ (by omega)
  rw [← dlNextHead_eq_waitingSlot h.delays, dlStored, slotAt_set, if_pos ⟨rfl, hhead⟩]

/-- The update empties none of the slots that leave after it, the input's among them. -/
theorem Waits.slotAt_dlRow_dlPhase {c i : Nat} (hc : c < s.build.N) (hi : i < s.cfg.delay.toNat) :
    slotAt (dlRow (dlPhase s) c) (waitingSlot (dlPhase s) i) = slotAt (dlStored s c) (waitingSlot s (i + 1)) := by
  obtain ⟨-, -, hcap⟩ := h.delays.toNat_bounds
  rw [dlRow_dlPhase h.delays hc, waitingSlot_dlPhase h.delays, dlOutIndex_eq_waitingSlot h.delays, slotAt_set, if_neg]
  exact fun hat => i.succ_ne_zero (waitingSlot_inj (by omega) (by omega) hat.1)

/-- The update emits the tuple that has waited longest. -/
theorem Waits.flow_dlPhase : (dlPhase s).flow = x := by
  rw [dlPhase_of_delays h.delays]
  refine Eq.trans (List.map_congr_left fun c hc => ?_) (map_slotAt_range (h.tuples x List.mem_cons_self))
  rw [dlOutIndex_eq_waitingSlot h.delays, h.slotAt_dlStored (List.mem_range.1 hc) rfl]

/-- After the update the tuple it was given waits behind the others. -/
theorem Waits.after_dlPhase (hflow : s.flow.length = s.build.N) : Waits (w ++ [s.flow]) (dlPhase s) := by
  have hcount : w.length + 1 = s.cfg.delay.toNat := h.count
  have hbuild : (dlPhase s).build = s.build := by rw [dlPhase_frame]
  have hcfg : (dlPhase s).cfg = s.cfg := by rw [dlPhase_frame]
  refine ⟨by rw [Delays, hbuild, hcfg]; exact h.delays, fun c hc => ?_, ?_, fun y hy => ?_, fun c hc i y hy => ?_⟩
  · rw [hbuild] at hc ⊢
    rw [dlRow_dlPhase h.delays hc, List.length_set, dlStored, List.length_set, h.rows c hc]
  · rw [hcfg, List.length_append, List.length_singleton, hcount]
  · rw [hbuild]
    obtain hy | hy := List.mem_append.1 hy
    · exact h.tuples y (List.mem_cons_of_mem x hy)
    · exact List.mem_singleton.1 hy ▸ hflow
  · rw [hbuild] at hc
    have hi : i < w.length + 1 := by simpa using (List.getElem?_eq_some_iff.1 hy).1
    rw [h.slotAt_dlRow_dlPhase hc (hcount ▸ hi)]
    obtain hold | rfl : i < w.length ∨ i = w.length := by omega
    · rw [List.getElem?_append_left hold] at hy
      exact h.slotAt_dlStored hc hy
    · rw [List.getElem?_concat_length] at hy
      rw [hcount, h.slotAt_dlStored_input hc, Option.some.inj hy]

end

/-- The delay line emits the tuples that wait in it, and then those it was given. -/
theorem Waits.feedDelayLine_eq_take {s : State} {w xs : List (List Slot)} (h : Waits w s)
    (hxs : ∀ x ∈ xs, x.length = s.build.N) : (feedDelayLine xs s).1 = (w ++ xs).take xs.length := by
  induction xs generalizing w s with
  | nil => rfl
  | cons x xs ih =>
    obtain ⟨hx, hrest⟩ := List.forall_mem_cons.1 hxs
    cases w with
    | nil =>
      obtain ⟨-, hpos, -⟩ := h.delays.toNat_bounds
      exact absurd h.count hpos.ne
    | cons y w =>
      have hgiven := h.withFlow x
      have hbuild : (dlPhase { s with flow := x }).build = s.build := by rw [dlPhase_frame]
      have htail := ih (hgiven.after_dlPhase hx) (by rwa [hbuild])
      calc (feedDelayLine (x :: xs) s).1
        _ = y :: (w ++ [x] ++ xs).take xs.length := congrArg₂ List.cons hgiven.flow_dlPhase htail
        _ = (y :: w ++ x :: xs).take (x :: xs).length := by
          rw [List.append_assoc]
          rfl

/-- Settles O41: DELAY empty tuples wait at first, so that they leave before the inputs. -/
theorem delayLineDelaysByExactlyDelayTicks : Obligations.DelayLineDelaysByExactlyDelayTicks := by
  intro s xs hpos hcap _ hempty hxs n hn
  rw [(waits_of_empty ⟨hpos, hcap⟩ hempty).feedDelayLine_eq_take hxs, List.getElem?_take_of_lt hn,
    List.getElem?_append, List.length_replicate]
  split
  · exact List.getElem?_replicate_of_lt ‹_›
  · rfl

end Sys2Proof.Machine
end

section
/-! The statistics of the live blocks (43_detector.md R293, R294, R296): the loop of R293 against the list of squared
first differences, and the registers it leaves. -/

namespace Sys2Proof.Machine

-- The loop over one block

/-- The loop keeps the last sample, and the maximum and the sum of the squared differences. -/
theorem foldl_statSample (xs : List Sample) (a : StatAcc) :
    xs.foldl statSample a =
      { prev := (xs.map BitVec.toInt).getLastD a.prev
        mx := (squaredDiffs a.prev xs).foldl max a.mx
        sum := a.sum + (squaredDiffs a.prev xs).sum } := by
  induction xs generalizing a with
  | nil => rfl
  | cons x xs ih =>
    rw [List.foldl_cons, ih]
    simp only [statSample, squaredDiffs, List.map_cons, List.getLastD_cons, List.foldl_cons, List.sum_cons,
      Nat.add_assoc]

/-- The statistics fit their registers, which hold them exactly (R293, R294). -/
theorem blockStats_exact {xs : List Sample} {ch : Chan} (h : ChanInRange ch) :
    (blockStats xs.length xs ch).maxsq.toNat = (squaredDiffs ch.prev.toInt xs).foldl max 0 ∧
    (blockStats xs.length xs ch).avg.toNat = (squaredDiffs ch.prev.toInt xs).sum / xs.length ∧
    (blockStats xs.length xs ch).prev.toInt = (xs.map BitVec.toInt).getLastD ch.prev.toInt := by
  obtain ⟨hprevLow, hprevHigh, -, -⟩ := h
  have hstart : ({ prev := ch.prev.toInt, mx := 0, sum := 0 } : StatAcc).Bounded 0 :=
    ⟨hprevLow, hprevHigh, Nat.zero_le _, Nat.zero_le _⟩
  have hbounded := foldl_statSample_bounded xs hstart
  rw [foldl_statSample] at hbounded
  obtain ⟨hlow, hhigh, hmx, hsum⟩ := hbounded
  simp only [Nat.zero_add] at hlow hhigh hmx hsum
  have havg := Nat.div_le_of_le_mul hsum
  simp only [blockStats, foldl_statSample, Nat.zero_add]
  refine ⟨?_, ?_, BitVec.toInt_ofInt_eq_self (by decide) (by omega) (by omega)⟩
  · rw [BitVec.toNat_ofNat, Nat.mod_eq_of_lt (by omega)]
  · rw [BitVec.toNat_ofNat, Nat.mod_eq_of_lt (by omega)]

theorem length_blockSamples (s : State) (h : Handle) : (blockSamples s h).length = s.build.L := by
  rw [blockSamples, List.length_map, List.length_range]

/-- The last of the L samples of a block. -/
theorem getLastD_blockSamples {s : State} (hL : 1 ≤ s.build.L) (h : Handle) (p : Int) :
    ((blockSamples s h).map BitVec.toInt).getLastD p = (poolSample s h (s.build.L - 1)).toInt := by
  obtain ⟨n, hn⟩ := Nat.exists_eq_add_of_le' hL
  rw [blockSamples, hn, List.range_succ, List.map_append, List.map_append, List.map_singleton, List.map_singleton,
    List.getLastD_concat, Nat.add_sub_cancel]

-- The registers after the update

theorem detPhase_of_detecting {s : State} (hpolicy : s.build.POLICY = .energy) (hthresh : 0 ≤ s.cfg.thresh.toInt) :
    detPhase s = .next (detUpdate s) := by
  rw [detPhase, hpolicy]
  exact if_neg hthresh.not_gt

/-- A channel without a live block keeps its registers (R296). -/
theorem chanAfter_of_absent {s : State} {c : Nat} (active : Bool) (h : slotAt s.live c = none) :
    chanAfter s active c = chanAt s c := by
  rw [chanAfter, h]

theorem chanStats_of_present {s : State} {c : Nat} {h : Handle} (hlive : slotAt s.live c = some h) :
    chanStats s c = blockStats s.build.L (blockSamples s h) (chanAt s c) := by
  rw [chanStats, hlive]

/-- A channel with a live block takes over its statistics and updates its noise estimate with them (R299). -/
theorem chanAfter_of_present {s : State} {c : Nat} {h : Handle} (active : Bool) (hlive : slotAt s.live c = some h) :
    chanAfter s active c =
      { chanStats s c with
        nest := nestUpdate (chanAt s c).nest (chanStats s c).avg (noiseWindow s.cfg active) } := by
  rw [chanAfter, hlive, chanStats_of_present hlive]
  rfl

theorem getElem?_detUpdate_chans {s : State} {c : Nat} (hc : c < s.build.N) :
    (detUpdate s).chans[c]? = some (chanAfter s (detStep s.cfg s.det (anyDetects s)).active c) := by
  rw [(detUpdate_registers s).2, List.getElem?_map, List.getElem?_range hc, Option.map_some]

theorem chanAt_detUpdate {s : State} {c : Nat} (hc : c < s.build.N) :
    chanAt (detUpdate s) c = chanAfter s (detStep s.cfg s.det (anyDetects s)).active c :=
  chanAt_of_getElem? (getElem?_detUpdate_chans hc)

/-- Settles O42: the statistics of a present channel are those of its block, and the noise update keeps them. -/
theorem detectorComputesBlockStatistics : Obligations.DetectorComputesBlockStatistics := by
  intro s hpolicy hthresh hL _ _ hrange
  refine ⟨detUpdate s, detPhase_of_detecting hpolicy hthresh, ?_,
    fun c ch hc hch => ⟨fun habsent => ?_, fun h hlive => ?_⟩⟩
  · rw [(detUpdate_registers s).2, List.length_map, List.length_range]
  · rw [getElem?_detUpdate_chans hc, chanAfter_of_absent _ habsent, chanAt_of_getElem? hch]
  · have hstats := blockStats_exact (xs := blockSamples s h) (hrange ch (List.mem_of_getElem? hch))
    rw [length_blockSamples, getLastD_blockSamples hL] at hstats
    refine ⟨_, getElem?_detUpdate_chans hc, ?_⟩
    rw [chanAfter_of_present _ hlive, chanStats_of_present hlive, chanAt_of_getElem? hch]
    exact hstats

end Sys2Proof.Machine
end

section
/-! The noise estimate (43_detector.md R299, R309). -/

namespace Sys2Proof.Machine

/-- A quotient rounded toward zero lies between 0 and the dividend. -/
theorem tdiv_between (d : Int) {w : Int} (hw : 0 < w) :
    (0 ≤ d.tdiv w ∧ d.tdiv w ≤ d) ∨ (d ≤ d.tdiv w ∧ d.tdiv w ≤ 0) := by
  obtain hd | hd := le_total 0 d
  · exact .inl ⟨Int.tdiv_nonneg hd hw.le, Int.tdiv_le_self w hd⟩
  · have hneg : 0 ≤ -d := by omega
    have hlow := Int.tdiv_nonneg hneg hw.le
    have hhigh := Int.tdiv_le_self w hneg
    rw [Int.neg_tdiv] at hlow hhigh
    exact .inr ⟨by omega, by omega⟩

theorem tdiv_eq_zero_of_abs_lt {d w : Int} (h : |d| < w) : d.tdiv w = 0 := by
  obtain ⟨hlow, hhigh⟩ := abs_lt.1 h
  rw [← Int.natAbs_eq_zero, Int.natAbs_tdiv]
  exact Nat.div_eq_of_lt (by omega)

/-- The update stays between the old estimate and the mean, so it does not wrap (R309). -/
theorem toNat_nestUpdate (nest avg : Word) {w : Word} (hw : 0 < w.toInt) :
    ((nestUpdate nest avg w).toNat : Int) =
      (nest.toNat : Int) + ((avg.toNat : Int) - (nest.toNat : Int)).tdiv w.toInt := by
  have hbetween := tdiv_between ((avg.toNat : Int) - (nest.toNat : Int)) hw
  have hnest := nest.isLt
  have havg := avg.isLt
  rw [nestUpdate, if_pos hw, BitVec.toNat_ofInt, Int.emod_eq_of_lt (by omega) (by omega),
    Int.toNat_of_nonneg (by omega)]

/-- Settles O44: the step toward the mean is a quotient rounded toward zero. -/
theorem noiseEstimateMovesTowardTheMean : Obligations.NoiseEstimateMovesTowardTheMean := by
  intro nest avg w hw
  have hvalue := toNat_nestUpdate nest avg hw
  have hbetween := tdiv_between ((avg.toNat : Int) - (nest.toNat : Int)) hw
  refine ⟨hvalue, by omega, by omega, fun hslow => BitVec.eq_of_toNat_eq ?_⟩
  rw [tdiv_eq_zero_of_abs_lt hslow] at hvalue
  omega

end Sys2Proof.Machine
end

section
/-! The counters of the detector and the fate of the delayed blocks (43_detector.md R292, R295-R305), and the builds
without a detector (R310). -/

namespace Sys2Proof.Machine

-- The builds without a detector, and the disabled detector

theorem detPhase_of_centroid {s : State} (h : s.build.POLICY = .centroid) :
    detPhase s = .refused .spectralCentroidPolicy := by
  rw [detPhase, h]

/-- Such a build has no tick on the detector's route. -/
theorem tick_of_centroid {s : State} (hpolicy : s.build.POLICY = .centroid) (hthresh : 0 ≤ s.cfg.thresh.toInt) :
    tick s = .refused .spectralCentroidPolicy := by
  have hreached : (dlPhase (acqPhase (isrPhase s))).build.POLICY = .centroid := by
    rw [dlPhase_frame, (source_frame s).1]
    exact hpolicy
  rw [tick_of_detector hthresh.not_gt, detPhase_of_centroid hreached]
  rfl

/-- Settles O37: of the two routes of a tick one reaches the detector. -/
theorem centroidBuildsRefuseTheDetector : Obligations.CentroidBuildsRefuseTheDetector := by
  refine fun s k hpolicy => ⟨detPhase_of_centroid hpolicy, fun hdue hthresh => ?_, fun hdue hthresh => ?_⟩
  · rw [exec_serviceOf_due hdue]
    exact tick_of_centroid hpolicy hthresh
  · rw [exec_serviceOf_due hdue]
    exact tick_completes (.inl hthresh)

/-- Discarding releases just the blocks in transit (R292, R305). -/
theorem releasedBlocks_discardFlow (s : State) :
    releasedBlocks s.free (fun k => some k ∈ s.flow) (discardFlow s).free :=
  releasedBlocks_releaseAll s.flow s

/-- Settles O45: the disabled detector discards what is in transit. -/
theorem disabledDetectorOnlyReleases : Obligations.DisabledDetectorOnlyReleases := by
  refine fun s hpolicy hthresh => ⟨(discardFlow s).free, ?_, releasedBlocks_discardFlow s⟩
  rw [exec, execDet, detPhase, hpolicy]
  exact (if_pos hthresh).trans (congrArg _ (discardFlow_frame s))

-- The detection

/-- The combined detection of R296, with MAXSQ as the update leaves it. -/
theorem anyDetects_iff (s : State) :
    anyDetects s = true ↔ ∃ c h, c < s.build.N ∧ slotAt s.live c = some h ∧
      s.cfg.thresh.toInt * ((chanAt s c).nest.toNat : Int) < ((chanAt (detUpdate s) c).maxsq.toNat : Int) := by
  have hchan {c : Nat} {h : Handle} (hc : c < s.build.N) (hlive : slotAt s.live c = some h) :
      chanDetects s.cfg.thresh (chanStats s c) = true ↔
        s.cfg.thresh.toInt * ((chanAt s c).nest.toNat : Int) < ((chanAt (detUpdate s) c).maxsq.toNat : Int) := by
    rw [chanAt_detUpdate hc, chanAfter_of_present _ hlive, chanDetects, decide_eq_true_iff, chanStats_of_present hlive]
    rfl
  simp only [anyDetects, List.any_eq_true, List.mem_range, Bool.and_eq_true, Option.isSome_iff_exists]
  constructor
  · rintro ⟨c, hc, ⟨h, hlive⟩, hdetects⟩
    exact ⟨c, h, hc, hlive, (hchan hc hlive).1 hdetects⟩
  · rintro ⟨c, h, hc, hlive, hdetects⟩
    exact ⟨c, hc, ⟨h, hlive⟩, (hchan hc hlive).2 hdetects⟩

-- The counters

/-- The re-arm of R297 writes SIGCOUNT and WDOG alone. -/
theorem rearmed_registers (cfg : Cfg) (d : Det) (detected : Bool) :
    (rearmed cfg d detected).sigcount.toInt =
        (if detected && !inGuard cfg d then cfg.extr.toInt else d.sigcount.toInt) ∧
      (rearmed cfg d detected).wdog = (if detected && !inGuard cfg d then 0 else d.wdog) ∧
      (rearmed cfg d detected).detcnt = d.detcnt ∧ (rearmed cfg d detected).noisecnt = d.noisecnt := by
  unfold rearmed
  split <;> exact ⟨rfl, rfl, rfl, rfl⟩

/-- WDOG after the increment of R302. -/
def countedWdog (cfg : Cfg) (r : Det) : Word := r.wdog + if decayed cfg r = -cfg.inhib.toInt then 1 else 0

/-- The increment makes WDOG reach NREP, and NREP > 0 (R304). -/
def watchdogDue (cfg : Cfg) (r : Det) : Bool :=
  decide (decayed cfg r = -cfg.inhib.toInt ∧ 0 < cfg.nrep.toInt ∧ cfg.nrep.toInt ≤ ((countedWdog cfg r).toNat : Int))

/-- The counters step from the re-armed registers `r` (R298-R304). -/
theorem detStep_of_rearmed {cfg : Cfg} {d r : Det} {detected : Bool} (hr : rearmed cfg d detected = r) :
    detStep cfg d detected =
      { det :=
          { sigcount := BitVec.ofInt 32 (decayed cfg r)
            wdog := if watchdogDue cfg r then 0 else countedWdog cfg r
            detcnt := if isActive r then r.detcnt + 1 else r.detcnt
            noisecnt := if watchdogDue cfg r && !isActive r then r.noisecnt + 1 else r.noisecnt }
        active := isActive r
        mustclose := decide (r.sigcount.toInt = 1 ∧ decayed cfg r = 0) && cfg.closeEv
        noise := watchdogDue cfg r && !isActive r } := by
  have hwdog : (if decide (decayed cfg r = -cfg.inhib.toInt) then r.wdog + 1 else r.wdog) = countedWdog cfg r := by
    by_cases hclamped : decayed cfg r = -cfg.inhib.toInt <;> simp [countedWdog, hclamped]
  simp only [detStep, hr, hwdog, watchdogDue, Bool.decide_and, Bool.and_assoc]

-- What the update leaves

/-- MUSTCLOSE is the one sticky bit that the update can set (R303). -/
theorem detUpdate_err (s : State) :
    (detUpdate s).err =
      if (detStep s.cfg s.det (anyDetects s)).mustclose then s.err.set .mustclose else s.err := by
  have hreg (k : DetStep) : (detRegisters k s).err = if k.mustclose then s.err.set .mustclose else s.err := by
    unfold detRegisters raiseMustclose
    split <;> rfl
  obtain ⟨k, hk, he | he⟩ := detUpdate_cases s <;> rw [he, ← hk]
  · exact hreg k
  · rw [discardFlow_frame]
    exact hreg k

/-- An active tick and a noise tick hand on what is in transit (R305). -/
theorem detUpdate_handsOn {s : State}
    (h : (detStep s.cfg s.det (anyDetects s)).active = true ∨ (detStep s.cfg s.det (anyDetects s)).noise = true) :
    (detUpdate s).flow = s.flow ∧ (detUpdate s).free = s.free := by
  rw [detUpdate, if_pos (Bool.or_eq_true_iff.2 h), detRegisters_frame]
  exact ⟨rfl, rfl⟩

/-- Every other tick releases what is in transit (R305). -/
theorem detUpdate_releases {s : State} (hactive : (detStep s.cfg s.det (anyDetects s)).active = false)
    (hnoise : (detStep s.cfg s.det (anyDetects s)).noise = false) :
    (detUpdate s).flow = noBlocks s.build.N ∧ releasedBlocks s.free (fun k => some k ∈ s.flow) (detUpdate s).free := by
  have hreleased := releasedBlocks_discardFlow (detRegisters (detStep s.cfg s.det (anyDetects s)) s)
  rw [detUpdate, if_neg (by simp [hactive, hnoise])]
  rw [detRegisters_frame] at hreleased ⊢
  exact ⟨rfl, hreleased⟩

/-- The noise estimate of a present channel follows the mean that the update stores (R298, R299). -/
theorem nest_detUpdate {s : State} {c : Nat} {h : Handle} (hc : c < s.build.N) (hlive : slotAt s.live c = some h) :
    (chanAt (detUpdate s) c).nest =
      nestUpdate (chanAt s c).nest (chanAt (detUpdate s) c).avg
        (noiseWindow s.cfg (detStep s.cfg s.det (anyDetects s)).active) := by
  rw [chanAt_detUpdate hc, chanAfter_of_present _ hlive]

/-- Settles O43: each term of the statement is one of the counter steps, taken from the re-armed registers. -/
theorem detectorRunsItsCounters : Obligations.DetectorRunsItsCounters := by
  rintro s hpolicy hthresh ⟨-, -, -, hinhib, -⟩ -
  refine ⟨detUpdate s, detPhase_of_detecting hpolicy hthresh, detUpdate_frame s, fun det hdet => ?_⟩
  obtain rfl : det = anyDetects s := Bool.eq_iff_iff.2 (hdet.trans (anyDetects_iff s).symm)
  intro inhib sig rearm sig1 active sig2 wdog1 due noise
  have hsig2 := detStep_sigcount s.cfg s.det (anyDetects s) hinhib
  obtain ⟨(hsig1 : _ = sig1), hwdog, hdetcnt, hnoisecnt⟩ := rearmed_registers s.cfg s.det (anyDetects s)
  generalize hr : rearmed s.cfg s.det (anyDetects s) = r at hsig1 hwdog hdetcnt hnoisecnt hsig2
  have hstep := detStep_of_rearmed hr
  have hactive : isActive r = active := by rw [isActive, hsig1]
  have hdecayed : decayed s.cfg r = sig2 := by rw [decayed, hsig1]
  have hcounted : countedWdog s.cfg r = wdog1 := by
    rw [countedWdog, hdecayed, hwdog]
    rfl
  have hdue : watchdogDue s.cfg r = due := by rw [watchdogDue, hdecayed, hcounted]
  rw [hdue, hcounted, hactive, hdecayed, hsig1, hdetcnt, hnoisecnt] at hstep
  have hdet' := (detUpdate_registers s).1
  refine ⟨?_, ?_, ?_, ?_, ?_, fun h => detUpdate_handsOn (hstep ▸ h),
    fun hquiet hsilent => detUpdate_releases (hstep ▸ hquiet) (hstep ▸ hsilent), fun c h ch hc hlive hch => ?_⟩
  · rw [hdet', hsig2, hdecayed]
  · rw [hdet', hstep]
  · rw [hdet', hstep]
  · rw [hdet', hstep]
  · rw [detUpdate_err, hstep]
    simp only [Bool.and_eq_true, decide_eq_true_iff, and_assoc]
    rfl
  · rw [nest_detUpdate hc hlive, chanAt_of_getElem? hch, hstep]
    rfl

end Sys2Proof.Machine
end

section
/-! What the multiplexer accepts (44_multiplexer.md R330, R332), and the updates that emit nothing: a frame that waits
(R335) and one that is dropped (R333). -/

namespace Sys2Proof.Machine

-- One channel's block

/-- What slot k holds once its channel's block has been accepted (R332). -/
def muxHeld (s : State) (k : Nat) : Slot := (slotAt s.muxIn k).or (slotAt s.flow k)

/-- Channel k's block meets an occupied slot (R332). -/
def muxClash (s : State) (k : Nat) : Bool := (slotAt s.muxIn k).isSome && (slotAt s.flow k).isSome

/-- The block of channel k that is not accepted, if there is one (R332). -/
def muxRejected (s : State) (k : Nat) : Slot := if muxClash s k then slotAt s.flow k else none

theorem muxRejected_eq_some_iff {s : State} {k : Nat} {h : Handle} :
    muxRejected s k = some h ↔ muxClash s k = true ∧ slotAt s.flow k = some h := by
  unfold muxRejected
  split <;> simp [*]

theorem set_slotAt_self (xs : List Slot) (c : Nat) : xs.set c (slotAt xs c) = xs := by
  by_cases hc : c < xs.length
  · rw [slotAt, List.getD_eq_getElem _ _ hc, List.set_getElem_self]
  · exact List.set_eq_of_length_le (not_lt.1 hc)

/-- The three cases of R332 in one equation. -/
theorem muxAccept_eq (s : State) (c : Nat) :
    muxAccept s c =
      { s with
        muxIn := s.muxIn.set c (muxHeld s c)
        cnt := { s.cnt with muxdrop := s.cnt.muxdrop + BitVec.ofNat 32 (muxClash s c).toNat }
        err := { s.err with muxovr := s.err.muxovr || muxClash s c }
        free := (release (muxRejected s c) s).free } := by
  unfold muxAccept
  have hkeep := set_slotAt_self s.muxIn c
  split
  · rename_i hnone
    simp [muxHeld, muxClash, muxRejected, hnone, hkeep]
  · rename_i h hsome
    split
    · rename_i hfull
      have hheld : muxHeld s c = slotAt s.muxIn c := by rw [muxHeld, Option.or_of_isSome hfull]
      rw [hheld, hkeep]
      simp [muxClash, muxRejected, hsome, hfull, muxOverrun, raise, release, Errors.set]
    · rename_i hempty
      rw [Option.not_isSome_iff_eq_none] at hempty
      simp [muxHeld, muxClash, muxRejected, hsome, hempty]

-- All channels' blocks

/-- The multiplexer's slots after the first m channels' turns. -/
def muxSlots (s : State) (m : Nat) : List Slot := (List.range m).map (muxHeld s) ++ s.muxIn.drop m

theorem slotAt_muxSlots (s : State) (m : Nat) : slotAt (muxSlots s m) m = slotAt s.muxIn m := by
  simp [slotAt, muxSlots, List.getD_eq_getElem?_getD, List.getElem?_append_right]

theorem muxSlots_set {s : State} {m : Nat} (hm : m < s.muxIn.length) :
    (muxSlots s m).set m (muxHeld s m) = muxSlots s (m + 1) := by
  rw [muxSlots, muxSlots, List.set_append_right _ _ (by simp), List.drop_eq_getElem_cons hm,
    List.length_map, List.length_range, Nat.sub_self, List.set_cons_zero, List.range_succ, List.map_append,
    List.append_assoc]
  rfl

theorem release_free_congr {s t : State} (o : Slot) (h : t.free = s.free) : (release o t).free = (release o s).free := by
  cases o with
  | none => exact h
  | some k => rw [release_some_free, release_some_free, h]

theorem releaseAll_concat (os : List Slot) (o : Slot) (s : State) :
    releaseAll (os ++ [o]) s = release o (releaseAll os s) := by
  rw [releaseAll, List.foldl_append]
  rfl

/-- The state after the first m channels' turns (R330, R332). -/
def muxAfterTurns (s : State) (m : Nat) : State :=
  { s with
    muxIn := muxSlots s m
    cnt := { s.cnt with muxdrop := s.cnt.muxdrop + BitVec.ofNat 32 ((List.range m).countP (muxClash s)) }
    err := { s.err with muxovr := s.err.muxovr || (List.range m).any (muxClash s) }
    free := (releaseAll ((List.range m).map (muxRejected s)) s).free }

/-- The next channel's turn decides by its own slot, which no other turn has filled. -/
theorem muxAccept_muxAfterTurns {s : State} {m : Nat} (hm : m < s.muxIn.length) :
    muxAccept (muxAfterTurns s m) m = muxAfterTurns s (m + 1) := by
  have hslot : slotAt (muxAfterTurns s m).muxIn m = slotAt s.muxIn m := slotAt_muxSlots s m
  have hflow : (muxAfterTurns s m).flow = s.flow := rfl
  have hheld : muxHeld (muxAfterTurns s m) m = muxHeld s m := by rw [muxHeld, hslot, hflow, muxHeld]
  have hclash : muxClash (muxAfterTurns s m) m = muxClash s m := by rw [muxClash, hslot, hflow, muxClash]
  have hrejected : muxRejected (muxAfterTurns s m) m = muxRejected s m := by
    rw [muxRejected, hclash, hflow, muxRejected]
  have hfree : (release (muxRejected s m) (muxAfterTurns s m)).free =
      (releaseAll ((List.range (m + 1)).map (muxRejected s)) s).free := by
    rw [List.range_succ, List.map_append, List.map_singleton, releaseAll_concat]
    exact release_free_congr _ rfl
  have hcount : (List.range (m + 1)).countP (muxClash s) =
      (List.range m).countP (muxClash s) + (muxClash s m).toNat := by
    rw [List.range_succ, List.countP_append, List.countP_singleton]
    cases muxClash s m <;> rfl
  have hany : (List.range (m + 1)).any (muxClash s) = ((List.range m).any (muxClash s) || muxClash s m) := by
    rw [List.range_succ, List.any_append, List.any_cons, List.any_nil, Bool.or_false]
  rw [muxAccept_eq, hheld, hclash, hrejected, hfree]
  simp only [muxAfterTurns, muxSlots_set hm, hcount, hany, BitVec.ofNat_add, BitVec.add_assoc, Bool.or_assoc]

theorem foldl_muxAccept_range {s : State} {m : Nat} (hm : m ≤ s.muxIn.length) :
    (List.range m).foldl muxAccept s = muxAfterTurns s m := by
  induction m with
  | zero => simp [muxAfterTurns, muxSlots, releaseAll]
  | succ m ih =>
    rw [List.range_succ, List.foldl_append, ih (Nat.le_of_succ_le hm), List.foldl_cons, List.foldl_nil,
      muxAccept_muxAfterTurns hm]

/-- All blocks in transit accepted, `f` being the free bits after the releases (R330, R332). -/
def muxAccepted (s : State) (f : List Bool) : State :=
  { s with
    flow := List.replicate s.build.N none
    muxIn := (List.range s.build.N).map (muxHeld s)
    cnt := { s.cnt with muxdrop := s.cnt.muxdrop + BitVec.ofNat 32 ((List.range s.build.N).countP (muxClash s)) }
    err := { s.err with muxovr := s.err.muxovr || (List.range s.build.N).any (muxClash s) }
    free := f }

/-- The turns of all N channels, the blocks for occupied slots being released (R330, R332). -/
theorem muxAcceptAll_eq {s : State} (hlen : s.muxIn.length = s.build.N) :
    muxAcceptAll s = muxAccepted s (releaseAll ((List.range s.build.N).map (muxRejected s)) s).free := by
  rw [muxAcceptAll, foldl_muxAccept_range hlen.ge, muxAfterTurns, muxSlots, ← hlen, List.drop_length, List.append_nil,
    hlen]
  rfl

-- What the releases free

/-- The free bits after the blocks for occupied slots have been released (R332). -/
def ReleasedClashes (s : State) (f : List Bool) : Prop :=
  releasedBlocks s.free (fun h => ∃ k < s.build.N, muxClash s k = true ∧ slotAt s.flow k = some h) f

theorem releasedClashes_releaseAll (s : State) :
    ReleasedClashes s (releaseAll ((List.range s.build.N).map (muxRejected s)) s).free := by
  have hreleased := releasedBlocks_releaseAll ((List.range s.build.N).map (muxRejected s)) s
  simp only [List.mem_map, List.mem_range, muxRejected_eq_some_iff] at hreleased
  exact hreleased

theorem releasedBlocks_unique {f f₁ f₂ : List Bool} {held : Handle → Prop} (h₁ : releasedBlocks f held f₁)
    (h₂ : releasedBlocks f held f₂) : f₁ = f₂ := by
  refine List.ext_getElem (h₁.1.trans h₂.1.symm) fun k hk hk' => ?_
  have hbit := (h₁.2 k).trans (h₂.2 k).symm
  rw [List.getD_eq_getElem _ _ hk, List.getD_eq_getElem _ _ hk'] at hbit
  exact Bool.eq_iff_iff.2 hbit

theorem muxAcceptAll_of_released {s : State} {f : List Bool} (hlen : s.muxIn.length = s.build.N)
    (hf : ReleasedClashes s f) : muxAcceptAll s = muxAccepted s f := by
  rw [muxAcceptAll_eq hlen, releasedBlocks_unique hf (releasedClashes_releaseAll s)]

-- The frame

theorem slotAt_muxAccepted {s : State} {f : List Bool} {k : Nat} (hk : k < s.build.N) :
    slotAt (muxAccepted s f).muxIn k = muxHeld s k := by
  simp [muxAccepted, slotAt, List.getD_eq_getElem?_getD, hk]

theorem muxAccepted_present {s : State} {f : List Bool} (h : ∀ k < s.build.N, (muxHeld s k).isSome = true) :
    ∀ k < s.build.N, (slotAt (muxAccepted s f).muxIn k).isSome = true := fun k hk => by
  rw [slotAt_muxAccepted hk]
  exact h k hk

theorem exec_mux_of_muxed {s : State} (h : s.build.MUXED = true) : exec .mux s = .next (muxFrame (muxAcceptAll s)) := by
  rw [exec, execMux, muxPhase, if_pos h]

theorem allPresent_iff {n : Nat} {xs : List Slot} :
    allPresent n xs = true ↔ ∀ k < n, (slotAt xs k).isSome = true := by
  simp only [allPresent, List.all_eq_true, List.mem_range]

/-- A frame with an empty slot waits (R335). -/
theorem muxFrame_of_absent {s : State} {c : Nat} (hc : c < s.build.N) (hnone : slotAt s.muxIn c = none) :
    muxFrame s = s := by
  refine if_neg fun hall => ?_
  have hpresent := allPresent_iff.1 hall c hc
  rw [hnone] at hpresent
  cases hpresent

/-- A complete frame with fewer than N blocks free is dropped (R333). -/
theorem muxFrame_of_short {s : State} (hpresent : ∀ k < s.build.N, (slotAt s.muxIn k).isSome = true)
    (h : poolFree s < s.build.N) : muxFrame s = muxPoolFailed s := by
  rw [muxFrame, if_pos (allPresent_iff.2 hpresent), allocN, if_pos h]

/-- A state with other free bits, and another count of free values taken: what allocations change (R110, log 19). -/
def withPool (f : List Bool) (d : Nat) (s : State) : State := { s with free := f, draws := d }

/-- A complete frame with N blocks free is emitted into N of them (R334). -/
theorem muxFrame_of_enough {s : State} (hpresent : ∀ k < s.build.N, (slotAt s.muxIn k).isSome = true)
    (h : s.build.N ≤ poolFree s) :
    ∃ (os : List Handle) (f : List Bool) (d : Nat),
      muxFrame s = muxEmit os (withPool f d s) ∧ os.length = s.build.N ∧ tookBlocks s.free os f := by
  refine ⟨(allocEach s.build.N s).1, (allocEach s.build.N s).2.free, (allocEach s.build.N s).2.draws, ?_,
    allocEach_length h, allocEach_tookBlocks _ s⟩
  rw [withPool, ← allocEach_frame, muxFrame, if_pos (allPresent_iff.2 hpresent), allocN, if_neg (not_lt.2 h)]

/-- Settles O47: the slot of the absent channel stays empty. -/
theorem multiplexerWaitsForEveryChannel : Obligations.MultiplexerWaitsForEveryChannel := by
  intro s c hmuxed hlen hc hslot hflow
  refine ⟨_, ?_, releasedClashes_releaseAll s⟩
  have hempty : muxHeld s c = none := by rw [muxHeld, hslot, hflow, Option.or_none]
  rw [exec_mux_of_muxed hmuxed, muxAcceptAll_eq hlen,
    muxFrame_of_absent (s := muxAccepted s _) hc ((slotAt_muxAccepted hc).trans hempty)]
  rfl

/-- Settles O48: the allocation fails, and the slots hold just the blocks that are released. -/
theorem multiplexerDropsFrameWithoutBlocks : Obligations.MultiplexerDropsFrameWithoutBlocks := by
  intro s f n cur clash hmuxed hlen hpresent hf hshort
  refine ⟨(releaseAll (muxAccepted s f).muxIn (muxAccepted s f)).free, ?_, ?_⟩
  · have hframe := muxFrame_of_short (s := muxAccepted s f) (muxAccepted_present hpresent) hshort
    rw [exec_mux_of_muxed hmuxed, muxAcceptAll_of_released hlen hf, hframe, muxPoolFailed, muxEmpty, releaseAll_frame]
    rfl
  · have hreleased := releasedBlocks_releaseAll (muxAccepted s f).muxIn (muxAccepted s f)
    simp only [muxAccepted, List.mem_map, List.mem_range] at hreleased
    exact hreleased

end Sys2Proof.Machine
end

section
/-! The frame a multiplexer emits (44_multiplexer.md R334, R336, R337): the samples of its output blocks, the pushes, and
the free bits. -/

namespace Sys2Proof.Machine

-- The output blocks written

/-- The samples that output b copies from a channel lie within that channel's block (R334). -/
theorem muxIndex_lt {n l b i : Nat} (hdvd : l % n = 0) (hb : b < n) (hi : i < l) : b * (l / n) + i / n < l := by
  have hl : n * (l / n) = l := Nat.mul_div_cancel' (Nat.dvd_of_mod_eq_zero hdvd)
  have hdiv : i / n < l / n := Nat.div_lt_div_of_lt_of_dvd (Nat.dvd_of_mod_eq_zero hdvd) hi
  have hrow : (b + 1) * (l / n) ≤ n * (l / n) := Nat.mul_le_mul_right _ hb
  rw [Nat.add_mul, Nat.one_mul] at hrow
  omega

/-- t is s with memory written in samples of the blocks `os` alone. -/
def WroteBlocks (os : List Handle) (s t : State) : Prop :=
  t = { s with mem := t.mem } ∧
    ∀ a, (∀ h i, h ∈ os → i < s.build.L →
        a ≠ plinAddr (h * s.build.L + i) ∧ a ≠ plinAddr (h * s.build.L + i) + 1) →
      readByte t a = readByte s a

theorem wroteBlocks_refl (os : List Handle) (s : State) : WroteBlocks os s s := ⟨rfl, fun _ _ => rfl⟩

section
variable {os : List Handle} {s t : State} (ht : WroteBlocks os s t)
include ht

theorem WroteBlocks.build : t.build = s.build := by rw [ht.1]

theorem WroteBlocks.muxIn : t.muxIn = s.muxIn := by rw [ht.1]

theorem WroteBlocks.afterSample {h i : Nat} (v : Sample) (hh : h ∈ os) (hi : i < s.build.L) :
    WroteBlocks os s (writeSample h i v t) := by
  refine ⟨?_, fun a ha => (readByte_writeSample_other v t ?_).trans (ht.2 a ha)⟩
  · have hframe : writeSample h i v t = { t with mem := (writeSample h i v t).mem } := rfl
    rw [hframe, ht.1]
  · rw [ht.build]
    exact ha h i hh hi

theorem WroteBlocks.poolSample_eq {h i : Nat} (hh : h ∉ os) (hi : i < s.build.L) :
    poolSample t h i = poolSample s h i := by
  have hplace {k j : Nat} (hk : k ∈ os) (hj : j < s.build.L) : h * s.build.L + i ≠ k * s.build.L + j :=
    fun e => hh ((sampleIndex_inj hi hj e).1 ▸ hk)
  rw [poolSample, poolSample, ht.build, plin, plin, readHalf, readHalf, ht.2, ht.2]
  all_goals
    intro k j hk hj
    have := hplace hk hj
    unfold plinAddr
    omega

theorem WroteBlocks.afterBlock {bh : Handle × Nat} (hh : bh.1 ∈ os) : WroteBlocks os s (muxWriteBlock t bh) :=
  List.foldlRecOn (motive := WroteBlocks os s) _ _ ht fun _ hu _ hi =>
    hu.afterSample _ hh (ht.build ▸ List.mem_range.1 hi)

/-- The copy reads the inputs, which it does not write, so that every sample is the one the frame began with. -/
theorem WroteBlocks.muxSource_eq {b i : Nat} (hb : b < s.build.N) (hi : i < s.build.L)
    (hdvd : s.build.L % s.build.N = 0) (happart : (slotAt s.muxIn (i % s.build.N)).getD 0 ∉ os) :
    muxSource t b i = muxSource s b i := by
  rw [muxSource, muxSource, ht.build, ht.muxIn]
  exact ht.poolSample_eq happart (muxIndex_lt hdvd hb hi)

end

/-- The inputs of the frame, in the reading of `muxSource`, are none of the blocks `os`. -/
def InputsApart (os : List Handle) (s : State) : Prop := ∀ k < s.build.N, (slotAt s.muxIn k).getD 0 ∉ os

/-- One output block written: its samples are those of R334, as the frame began. -/
theorem WroteBlocks.poolSample_afterBlock {os : List Handle} {s t : State} (ht : WroteBlocks os s t) {h b i : Nat}
    (hh : h ∈ os) (hb : b < s.build.N) (hi : i < s.build.L) (hdvd : s.build.L % s.build.N = 0)
    (happart : InputsApart os s) : poolSample (muxWriteBlock t (h, b)) h i = muxSource s b i := by
  unfold muxWriteBlock
  rw [ht.build]
  refine foldl_establishes (I := WroteBlocks os s) (P := fun u => poolSample u h i = muxSource s b i)
    (List.mem_range.2 hi) (fun u j hj hu => hu.afterSample _ hh (List.mem_range.1 hj)) (fun u hu => ?_)
    (fun u j _ hne _ hp => ?_) ht
  · exact (poolSample_writeSample_same h i _ u).trans
      (hu.muxSource_eq hb hi hdvd (happart _ (Nat.mod_lt _ (Nat.zero_lt_of_lt hb))))
  · exact (poolSample_writeSample_other _ u hne).trans hp

/-- All output blocks written: each holds its part of the stream (R334). -/
theorem poolSample_muxWrite {os : List Handle} {s : State} (hnodup : os.Nodup) (hlen : os.length = s.build.N)
    (hdvd : s.build.L % s.build.N = 0) (happart : InputsApart os s) {b i h : Nat} (hb : os[b]? = some h)
    (hi : i < s.build.L) : poolSample (os.zipIdx.foldl muxWriteBlock s) h i = muxSource s b i := by
  have hblock {bh : Handle × Nat} (hbh : bh ∈ os.zipIdx) : bh.1 ∈ os :=
    List.mem_of_getElem? (List.mem_zipIdx_iff_getElem?.1 hbh)
  have hlt : b < os.length := (List.getElem?_eq_some_iff.1 hb).1
  refine foldl_establishes (I := WroteBlocks os s) (P := fun u => poolSample u h i = muxSource s b i) (x := (h, b))
    (List.mem_zipIdx_iff_getElem?.2 hb) (fun u bh hbh hu => hu.afterBlock (hblock hbh))
    (fun u hu => hu.poolSample_afterBlock (List.mem_of_getElem? hb) (hlen ▸ hlt) hi hdvd happart)
    (fun u bh hbh hne hu hp => ?_) (wroteBlocks_refl os s)
  have hother : h ∉ [bh.1] := by
    rw [List.mem_singleton]
    rintro rfl
    have hindex : b = bh.2 := (List.getElem?_inj hlt hnodup).1 (hb.trans (List.mem_zipIdx_iff_getElem?.1 hbh).symm)
    exact hne (Prod.ext rfl hindex.symm)
  have hone := (wroteBlocks_refl [bh.1] u).afterBlock (bh := bh) (List.mem_singleton_self _)
  exact (hone.poolSample_eq hother (hu.build ▸ hi)).trans hp

theorem wroteBlocks_muxWrite (os : List Handle) (s : State) : WroteBlocks os s (os.zipIdx.foldl muxWriteBlock s) :=
  List.foldlRecOn (motive := WroteBlocks os s) _ _ (wroteBlocks_refl os s) fun _ hu _ hbh =>
    hu.afterBlock (List.mem_of_getElem? (List.mem_zipIdx_iff_getElem?.1 hbh))

-- The pushes

/-- A push frees no block but its own. -/
theorem queuePush_free_cases (q : Nat) (k : Handle) (s : State) :
    (queuePush q k s).free = s.free ∨ (queuePush q k s).free = (release (some k) s).free := by
  obtain he | ⟨-, he⟩ := queuePush_cases q k s <;> rw [he]
  · exact .inr rfl
  · exact .inl rfl

/-- A push can raise QFULL and no other error. -/
theorem queuePush_err (q : Nat) (k : Handle) (s : State) :
    (queuePush q k s).err = { s.err with qfull := (queuePush q k s).err.qfull } := by
  obtain he | ⟨-, he⟩ := queuePush_cases q k s <;> rw [he]
  · simp [dropPush, Errors.set]
  · rfl

/-- The queues after a push depend on the queues before it alone. -/
theorem queuePush_queues_congr (q : Nat) (k : Handle) {s t : State} (hbuild : t.build = s.build)
    (hqueues : t.queues = s.queues) : (queuePush q k t).queues = (queuePush q k s).queues := by
  have hq : queueAt t q = queueAt s q := by rw [queueAt, hbuild, hqueues, queueAt]
  unfold queuePush
  rw [hq, hbuild]
  split
  · simp [dropPush, hq, hqueues]
  · simp [storePush, hq, hqueues, hbuild]

theorem pushEach_free (os : List Handle) (s : State) :
    (os.foldl (fun s h => queuePush 0 h s) s).free.length = s.free.length ∧
      ∀ h, h ∉ os → (os.foldl (fun s h => queuePush 0 h s) s).free.getD h false = s.free.getD h false := by
  refine List.foldlRecOn (motive := fun u : State => u.free.length = s.free.length ∧
    ∀ h, h ∉ os → u.free.getD h false = s.free.getD h false) _ _ ⟨rfl, fun _ _ => rfl⟩
      fun u ⟨hlen, hbits⟩ k hk => ?_
  obtain he | he := queuePush_free_cases 0 k u <;> simp only [he]
  · exact ⟨hlen, hbits⟩
  · refine ⟨(release_free_length _ u).trans hlen, fun h hh => ?_⟩
    have hne : ¬ (some k = some h ∧ h < u.free.length) := fun ⟨e, _⟩ => hh (Option.some.inj e ▸ hk)
    rw [release_free_getD, decide_eq_false hne, Bool.or_false, hbits h hh]

theorem pushEach_err (os : List Handle) (s : State) :
    (os.foldl (fun s h => queuePush 0 h s) s).err =
      { s.err with qfull := (os.foldl (fun s h => queuePush 0 h s) s).err.qfull } := by
  refine List.foldlRecOn (motive := fun u : State => u.err = { s.err with qfull := u.err.qfull }) _ _ rfl
    fun u hu k _ => ?_
  rw [queuePush_err, hu]

theorem pushEach_queues_congr (os : List Handle) {s t : State} (hbuild : t.build = s.build)
    (hqueues : t.queues = s.queues) :
    (os.foldl (fun s h => queuePush 0 h s) t).queues = (os.foldl (fun s h => queuePush 0 h s) s).queues := by
  refine (List.foldl_rel (r := fun u w : State => u.build = w.build ∧ u.queues = w.queues) ⟨hbuild, hqueues⟩
    fun k _ u w ⟨hb, hq⟩ => ⟨?_, queuePush_queues_congr 0 k hb hq⟩).2
  rw [queuePush_frame, queuePush_frame 0 k w]
  exact hb

-- The emission

theorem muxEmit_queues (os : List Handle) (s : State) :
    (muxEmit os s).queues = (os.foldl (fun s h => queuePush 0 h s) s).queues := by
  rw [muxEmit, muxEmpty_frame, muxWrite_frame]
  exact pushEach_queues_congr os rfl rfl

theorem muxEmit_err (os : List Handle) (s : State) :
    (muxEmit os s).err = { s.err with qfull := (muxEmit os s).err.qfull } := by
  rw [muxEmit, muxEmpty_frame, muxWrite_frame]
  exact pushEach_err os _

theorem muxEmit_muxIn (os : List Handle) (s : State) : (muxEmit os s).muxIn = noBlocks s.build.N := by
  rw [muxEmit, muxEmpty_frame, pushEach_frame, muxWrite_frame]

/-- An emission releases its inputs; of the outputs it may release those that are not stored (R336, R337). -/
theorem muxEmit_free_getD {os : List Handle} (s : State) {h : Handle} (hh : h ∉ os) :
    (muxEmit os s).free.getD h false = (s.free.getD h false || decide (some h ∈ s.muxIn ∧ h < s.free.length)) := by
  obtain ⟨hlen, hbits⟩ := pushEach_free os (os.zipIdx.foldl muxWriteBlock s)
  rw [muxEmit, muxEmpty]
  simp only
  rw [releaseAll_free_getD, hlen, hbits h hh, pushEach_frame, muxWrite_frame]

/-- An emission writes memory by the copy alone. -/
theorem readByte_muxEmit_other (os : List Handle) (s : State) {a : Nat}
    (ha : ∀ h i, h ∈ os → i < s.build.L →
      a ≠ plinAddr (h * s.build.L + i) ∧ a ≠ plinAddr (h * s.build.L + i) + 1) :
    readByte (muxEmit os s) a = readByte s a := by
  have hcopy := (wroteBlocks_muxWrite os s).2 a ha
  rw [muxEmit, muxEmpty_frame, pushEach_frame]
  exact hcopy

theorem poolSample_muxEmit {os : List Handle} {s : State} (hnodup : os.Nodup) (hlen : os.length = s.build.N)
    (hdvd : s.build.L % s.build.N = 0) (happart : InputsApart os s) {b i h : Nat} (hb : os[b]? = some h)
    (hi : i < s.build.L) : poolSample (muxEmit os s) h i = muxSource s b i := by
  have hcopy := poolSample_muxWrite hnodup hlen hdvd happart hb hi
  rw [muxEmit, muxEmpty_frame, pushEach_frame]
  exact hcopy

/-- Settles O46: the outputs are allocated from what is free once the frame is complete, hence none of its inputs; the
copy, the pushes and the releases follow in this order. -/
theorem multiplexerInterleavesTheFrame : Obligations.MultiplexerInterleavesTheFrame := by
  intro s f hvalid hmuxed hlen n cur clash hpresent hf henough hinputs
  have hdvd : s.build.L % n = 0 := by
    obtain ⟨-, -, -, -, -, -, -, -, -, -, -, -, hdvd⟩ := (buildValid_iff s.build).1 hvalid
    exact hdvd hmuxed
  have hslot {k : Nat} (hk : k < n) : slotAt (muxAccepted s f).muxIn k = cur k := slotAt_muxAccepted hk
  obtain ⟨os, f', d, hframe, hos, hnodup, hfree, hlen', hbits⟩ :=
    muxFrame_of_enough (s := muxAccepted s f) (muxAccepted_present hpresent) henough
  have happart : InputsApart os (withPool f' d (muxAccepted s f)) := fun k hk hm => by
    obtain ⟨h, hh⟩ := Option.isSome_iff_exists.1 (hpresent k hk)
    have hheld : slotAt (withPool f' d (muxAccepted s f)).muxIn k = some h := (hslot hk).trans hh
    rw [hheld] at hm
    exact Bool.false_ne_true ((hinputs k h hk hh).2.symm.trans (hfree h hm).2)
  refine ⟨os, muxEmit os (withPool f' d (muxAccepted s f)), ?_, ?_, hos, hnodup, fun h hh => (hfree h hh).2,
    fun b i h k hb hi hh hk => ?_, ?_, fun h hh => ?_, fun a ha => readByte_muxEmit_other os _ ha⟩
  · rw [exec_mux_of_muxed hmuxed, muxAcceptAll_of_released hlen hf, hframe]
  · have hdraws : (muxEmit os (withPool f' d (muxAccepted s f))).draws = d := by rw [muxEmit_frame]; rfl
    rw [hdraws]
    conv_lhs => rw [muxEmit_frame, muxEmit_err, muxEmit_muxIn]
    rfl
  · have hsource : slotAt (withPool f' d (muxAccepted s f)).muxIn (i % n) = some k :=
      (hslot (Nat.mod_lt _ (Nat.zero_lt_of_lt hb))).trans hk
    refine (poolSample_muxEmit (s := withPool f' d (muxAccepted s f)) hnodup hos hdvd happart hh hi).trans ?_
    change poolSample s ((slotAt (withPool f' d (muxAccepted s f)).muxIn (i % n)).getD 0) _ = _
    rw [hsource]
    rfl
  · rw [muxEmit_queues]
    exact pushEach_queues_congr os rfl rfl
  · have hin : some h ∈ (withPool f' d (muxAccepted s f)).muxIn ↔ ∃ k < n, cur k = some h := by
      simp only [withPool, muxAccepted, List.mem_map, List.mem_range]
      rfl
    have hbit : (withPool f' d (muxAccepted s f)).free.getD h false = f.getD h false := by
      refine (hbits h).trans ?_
      rw [List.contains_eq_mem, decide_eq_false hh]
      exact Bool.and_true _
    have hlt : (∃ k < n, cur k = some h) → h < (withPool f' d (muxAccepted s f)).free.length :=
      fun ⟨k, hk, hcur⟩ => (hinputs k h hk hcur).1.trans_eq hlen'.symm
    rw [muxEmit_free_getD _ hh, Bool.or_eq_true, decide_eq_true_iff, hin, hbit, and_iff_left_of_imp hlt]

end Sys2Proof.Machine
end

section
/-! The queue commands and the QPUSH phase (45_record_queue.md R360-R366): what each operation makes of the queue it
names, and what it leaves unchanged. -/

namespace Sys2Proof.Machine

-- The queue a command names

theorem onQueue_of_lt {s : State} {q : Nat} (hq : q < s.build.NQ) (f : State → State) :
    onQueue q f s = .next (f s) := if_pos hq

/-- A command for no queue of the build is refused (R365). -/
theorem onQueue_of_le {s : State} {q : Nat} (hq : s.build.NQ ≤ q) (f : State → State) :
    onQueue q f s = .next (refuseCommand s) := if_neg hq.not_gt

/-- Settles O14: each of the four is a command on queue q. -/
theorem queueCommandsRefuseBadIndex : Obligations.QueueCommandsRefuseBadIndex := by
  intro s q hq i hi
  simp only [List.mem_cons, List.not_mem_nil, or_false] at hi
  obtain rfl | rfl | rfl | rfl := hi <;> exact onQueue_of_le hq _

-- QAVAIL

/-- Settles O15: the count is less than 2^32, and it is the difference of the indices modulo the ring. -/
theorem qavailCountsQueuedBlocks : Obligations.QavailCountsQueuedBlocks := by
  refine ⟨by decide, fun s q u hq hu ⟨_, _, htail⟩ hQCAP => ⟨_, onQueue_of_lt hq _, ?_⟩⟩
  obtain rfl := queueAt_of_getElem? hu
  have hle := queueCount_le s.build (queueAt s q)
  rw [← queueCount_eq_emod htail, BitVec.toNat_ofNat, Nat.mod_eq_of_lt (by omega)]

-- QREAD

theorem slotAt_eq_some_iff {xs : List Slot} {k : Nat} {h : Handle} :
    slotAt xs k = some h ↔ xs[k]? = some (some h) := by
  rw [slotAt, List.getD_eq_getElem?_getD]
  cases xs[k]? <;> simp

theorem borrowOldest_of_null {s : State} {q : Nat}
    (h : (queueAt s q).borrow = true ∨ (queueAt s q).head = (queueAt s q).tail) :
    borrowOldest q s = setResult 0xFFFFFFFF s := if_pos h

/-- QREAD of a queue with a block to lend (R362). -/
theorem borrowOldest_of_queued {s : State} {q : Nat} (hidle : (queueAt s q).borrow = false)
    (hne : (queueAt s q).head ≠ (queueAt s q).tail) :
    borrowOldest q s =
      setResult (handleWord (queueOldest (queueAt s q))) (setQueue q { queueAt s q with borrow := true } s) :=
  if_neg (not_or.2 ⟨ne_true_of_eq_false hidle, hne⟩)

/-- Settles O16: the two arms of R362. -/
theorem qreadLendsTheOldestBlock : Obligations.QreadLendsTheOldestBlock := by
  refine ⟨by decide, fun s q u hq hu => ?_⟩
  obtain rfl := queueAt_of_getElem? hu
  have hexec : exec (.qread q) s = .next (borrowOldest q s) := onQueue_of_lt hq _
  refine ⟨fun hnull => ?_, fun hidle hne => ?_⟩
  · rw [hexec, borrowOldest_of_null hnull]
    rfl
  · rw [hexec, borrowOldest_of_queued hidle hne]
    refine ⟨⟨_, rfl⟩, fun h hh => ?_⟩
    rw [queueOldest, slotAt_eq_some_iff.2 hh]
    rfl

-- QFREE

/-- A queue after the return of the block at its tail (R363). -/
def returnedQueue (b : Build) (u : Queue) : Queue :=
  { u with slots := u.slots.set u.tail none, tail := nextIndex b u.tail, borrow := false }

theorem returnLent_of_idle {s : State} {q : Nat} (h : (queueAt s q).borrow = false) :
    returnLent q s = setResult 0 s := if_pos h

/-- QFREE of a lent block (R363). -/
theorem returnLent_of_lent {s : State} {q : Nat} (h : (queueAt s q).borrow = true) :
    returnLent q s =
      { s with
        result := 1
        queues := s.queues.set q (returnedQueue s.build (queueAt s q))
        free := (release (queueOldest (queueAt s q)) s).free } := by
  rw [returnLent, if_neg (by simp [h])]
  cases queueOldest (queueAt s q) <;> rfl

/-- Settles O17: the two arms of R363. -/
theorem qfreeReturnsTheLentBlock : Obligations.QfreeReturnsTheLentBlock := by
  refine ⟨by decide, fun s q u hq hu => ?_⟩
  obtain rfl := queueAt_of_getElem? hu
  have hexec : exec (.qfree q) s = .next (returnLent q s) := onQueue_of_lt hq _
  refine ⟨fun hidle => ?_, fun hlent => ⟨_, hexec.trans (congrArg _ (returnLent_of_lent hlent)), ?_⟩⟩
  · rw [hexec, returnLent_of_idle hidle]
    rfl
  · have hreleased := releasedBlocks_releaseAll [queueOldest (queueAt s q)] s
    simp only [List.mem_singleton, eq_comm (a := some _), queueOldest, slotAt_eq_some_iff] at hreleased
    exact hreleased

-- QCLEAR

theorem mem_queuedIndices {b : Build} {u : Queue} {k : Nat} :
    k ∈ queuedIndices b u ↔ ∃ j < queueCount b u, k = (u.tail + j) % (b.QCAP + 1) := by
  simp [queuedIndices, eq_comm]

/-- The blocks that a drain releases (R364). -/
theorem mem_queuedBlocks {b : Build} {u : Queue} {o : Slot} :
    o ∈ queuedBlocks b u ↔ ∃ j < queueCount b u, slotAt u.slots ((u.tail + j) % (b.QCAP + 1)) = o := by
  simp [queuedBlocks, queuedIndices]

theorem drainQueue_eq (q : Nat) (s : State) :
    drainQueue q s =
      { s with
        result := BitVec.ofNat 32 (queueCount s.build (queueAt s q))
        queues := s.queues.set q
          { slots := (queuedIndices s.build (queueAt s q)).foldl (fun xs j => xs.set j none) (queueAt s q).slots
            head := 0, tail := 0, borrow := false, drop := (queueAt s q).drop }
        free := (releaseAll (queuedBlocks s.build (queueAt s q)) s).free } := by
  rw [drainQueue, releaseAll_frame]
  rfl

/-- Settles O18: the drained indices and the released blocks are those of the n queued blocks. -/
theorem qclearDrainsTheQueue : Obligations.QclearDrainsTheQueue := by
  refine ⟨by decide, fun s q n u hq hu ⟨_, _, htail⟩ hn => ?_⟩
  obtain rfl := queueAt_of_getElem? hu
  obtain rfl : n = queueCount s.build (queueAt s q) := Int.ofNat_inj.1 (hn.trans (queueCount_eq_emod htail).symm)
  have hexec : exec (.qclear q) s = .next (drainQueue q s) := onQueue_of_lt hq _
  refine ⟨_, _, hexec.trans (congrArg _ (drainQueue_eq q s)), length_foldl_set _ _, fun k => ?_, ?_⟩
  · simp only [slotAt_foldl_set, mem_queuedIndices]
  · have hreleased := releasedBlocks_releaseAll (queuedBlocks s.build (queueAt s q)) s
    simp only [mem_queuedBlocks] at hreleased
    exact hreleased

-- QPUSH

/-- A queue after a block has been stored at its head (R360). -/
def storedQueue (b : Build) (h : Handle) (u : Queue) : Queue :=
  { u with slots := u.slots.set u.head (some h), head := nextIndex b u.head }

/-- A queue after a push that it had no room for (R366). -/
def droppedQueue (u : Queue) : Queue := { u with drop := u.drop + 1 }

theorem queuePush_of_room {s : State} {q : Nat} (hroom : nextIndex s.build (queueAt s q).head ≠ (queueAt s q).tail)
    (h : Handle) :
    queuePush q h s = { s with queues := s.queues.set q (storedQueue s.build h (queueAt s q)) } :=
  if_neg (by simpa [queueFull] using hroom)

theorem queuePush_of_full {s : State} {q : Nat} (hfull : nextIndex s.build (queueAt s q).head = (queueAt s q).tail)
    (h : Handle) :
    queuePush q h s =
      { s with
        queues := s.queues.set q (droppedQueue (queueAt s q))
        free := s.free.set h true
        err := { s.err with qfull := true } } :=
  if_pos (by simpa [queueFull] using hfull)

/-- A QPUSH phase pushes the first block in transit (R203, R360; log 4). -/
theorem pushPhase_of_first {s : State} {c : Nat} {h : Handle} (hc : c < s.build.N) (hh : slotAt s.flow c = some h)
    (hfirst : ∀ k < c, slotAt s.flow k = none) :
    pushPhase s = queuePush (sinkQueue s.build c) h { s with flow := s.flow.set c none } := by
  have hfind : (List.range s.build.N).find? (fun c => (slotAt s.flow c).isSome) = some c :=
    List.find?_range_eq_some.2 ⟨by simp [hh], List.mem_range.2 hc, fun k hk => by simp [hfirst k hk]⟩
  rw [pushPhase, hfind]
  simp only [hh]

/-- Settles O19: the phase is a push, with and without room. -/
theorem qpushStoresOrDrops : Obligations.QpushStoresOrDrops := by
  intro s c h q u hc hh hfirst hq hu
  obtain rfl := queueAt_of_getElem? hu
  have hexec : exec .qpush s = .next (queuePush q h { s with flow := s.flow.set c none }) := by
    rw [exec, execQpush, pushPhase_of_first hc hh hfirst, hq]
    rfl
  rw [hexec]
  exact ⟨fun hroom => congrArg _ (queuePush_of_room (s := { s with flow := s.flow.set c none }) hroom h),
    fun hfull => congrArg _ (queuePush_of_full (s := { s with flow := s.flow.set c none }) hfull h)⟩

end Sys2Proof.Machine
end

section
/-! A record queue as a bounded FIFO (45_record_queue.md R366-R369): a stored block is the last of the queued blocks, a
returned one was their first, and the count of them follows. -/

namespace Sys2Proof.Machine

-- The count

theorem queueCount_eq_zero_iff {b : Build} {u : Queue} (hs : QueueShaped b u) :
    queueCount b u = 0 ↔ u.head = u.tail := by
  have hcount := queueCount_eq hs
  obtain ⟨-, hhead, htail⟩ := hs
  split_ifs at hcount <;> omega

/-- The ring has no room just when QCAP blocks are queued (R360). -/
theorem nextIndex_head_eq_tail_iff {b : Build} {u : Queue} (hs : QueueShaped b u) :
    nextIndex b u.head = u.tail ↔ queueCount b u = b.QCAP := by
  have hcount := queueCount_eq hs
  obtain ⟨-, hhead, htail⟩ := hs
  rw [nextIndex_eq hhead]
  split_ifs at hcount ⊢ <;> omega

theorem storedQueue_shaped {b : Build} {u : Queue} (hs : QueueShaped b u) (h : Handle) :
    QueueShaped b (storedQueue b h u) := ⟨List.length_set.trans hs.1, nextIndex_le _ _, hs.2.2⟩

theorem returnedQueue_shaped {b : Build} {u : Queue} (hs : QueueShaped b u) : QueueShaped b (returnedQueue b u) :=
  ⟨List.length_set.trans hs.1, hs.2.1, nextIndex_le _ _⟩

theorem queueCount_storedQueue {b : Build} {u : Queue} (hs : QueueShaped b u) (hroom : queueCount b u < b.QCAP)
    (h : Handle) : queueCount b (storedQueue b h u) = queueCount b u + 1 := by
  have hcount := queueCount_eq hs
  have hstored := queueCount_eq (storedQueue_shaped hs h)
  have hnext : (storedQueue b h u).head = _ := nextIndex_eq hs.2.1
  have hkept : (storedQueue b h u).tail = u.tail := rfl
  obtain ⟨-, hhead, htail⟩ := hs
  split_ifs at hcount hstored hnext <;> omega

theorem queueCount_returnedQueue {b : Build} {u : Queue} (hs : QueueShaped b u) (hne : u.head ≠ u.tail) :
    queueCount b u = queueCount b (returnedQueue b u) + 1 := by
  have hcount := queueCount_eq hs
  have hreturned := queueCount_eq (returnedQueue_shaped hs)
  have hnext : (returnedQueue b u).tail = _ := nextIndex_eq hs.2.2
  have hkept : (returnedQueue b u).head = u.head := rfl
  obtain ⟨-, hhead, htail⟩ := hs
  split_ifs at hcount hreturned hnext <;> omega

-- The queued indices and blocks

theorem queuedIndices_storedQueue {b : Build} {u : Queue} (hs : QueueShaped b u) (hroom : queueCount b u < b.QCAP)
    (h : Handle) : queuedIndices b (storedQueue b h u) = queuedIndices b u ++ [u.head] := by
  have hlast : (u.tail + queueCount b u) % (b.QCAP + 1) = u.head := by
    have hcount := queueCount_eq hs
    obtain ⟨-, hhead, htail⟩ := hs
    rw [mod_ring (by omega)]
    split_ifs at hcount ⊢ <;> omega
  rw [queuedIndices, queueCount_storedQueue hs hroom, List.range_succ, List.map_append, List.map_singleton]
  exact congrArg (_ ++ [·]) hlast

theorem queuedIndices_returnedQueue {b : Build} {u : Queue} (hs : QueueShaped b u) (hne : u.head ≠ u.tail) :
    queuedIndices b u = u.tail :: queuedIndices b (returnedQueue b u) := by
  rw [queuedIndices, queueCount_returnedQueue hs hne, List.range_succ_eq_map, List.map_cons, List.map_map]
  refine congrArg₂ _ (Nat.mod_eq_of_lt (Nat.lt_succ_of_le hs.2.2)) (List.map_congr_left fun k _ => ?_)
  simp only [Function.comp_apply, returnedQueue, nextIndex, Nat.mod_add_mod, Nat.succ_eq_add_one, Nat.add_comm k 1,
    Nat.add_assoc]

theorem queuedBlocks_length (b : Build) (u : Queue) : (queuedBlocks b u).length = queueCount b u := by
  simp [queuedBlocks, queuedIndices]

/-- A slot that is not among the queued ones may be set. -/
theorem map_slotAt_set {js : List Nat} {i : Nat} (hi : i ∉ js) (xs : List Slot) (o : Slot) :
    js.map (slotAt (xs.set i o)) = js.map (slotAt xs) :=
  List.map_congr_left fun j hj => by rw [slotAt_set, if_neg fun ⟨e, _⟩ => hi (e ▸ hj)]

/-- A stored block is the youngest: it goes to the head, which is no queued index (R360, R368). -/
theorem queuedBlocks_storedQueue {b : Build} {u : Queue} (hs : QueueShaped b u) (hroom : queueCount b u < b.QCAP)
    (h : Handle) : queuedBlocks b (storedQueue b h u) = queuedBlocks b u ++ [some h] := by
  have hindices := queuedIndices_storedQueue hs hroom h
  have hnodup := queuedIndices_nodup b _ (storedQueue_shaped hs h)
  rw [hindices, List.nodup_append_comm, List.singleton_append, List.nodup_cons] at hnodup
  have hstored : slotAt (u.slots.set u.head (some h)) u.head = some h := by
    rw [slotAt_set, if_pos ⟨rfl, (Nat.lt_succ_of_le hs.2.1).trans_eq hs.1.symm⟩]
  rw [queuedBlocks, hindices, List.map_append, List.map_singleton]
  exact congrArg₂ (· ++ [·]) (map_slotAt_set hnodup.1 _ _) hstored

/-- A returned block was the oldest: it leaves the tail, and the others stay (R363, R369). -/
theorem queuedBlocks_returnedQueue {b : Build} {u : Queue} (hs : QueueShaped b u) (hne : u.head ≠ u.tail) :
    queuedBlocks b u = queueOldest u :: queuedBlocks b (returnedQueue b u) := by
  have hindices := queuedIndices_returnedQueue hs hne
  have hnodup := queuedIndices_nodup b u hs
  rw [hindices, List.nodup_cons] at hnodup
  rw [queuedBlocks, hindices, List.map_cons]
  exact congrArg _ (map_slotAt_set hnodup.1 _ _).symm

-- The queue after a push and after a pop

theorem queueAt_of_set {s t : State} {q : Nat} {u : Queue} (hq : q < s.queues.length)
    (h : t.queues = s.queues.set q u) : queueAt t q = u :=
  queueAt_of_getElem? (by rw [h, List.getElem?_set_self hq])

theorem queuePush_build (q : Nat) (h : Handle) (s : State) : (queuePush q h s).build = s.build := by
  rw [queuePush_frame]

theorem queueAt_queuePush_of_room {s : State} {q : Nat} (hq : q < s.queues.length)
    (hs : QueueShaped s.build (queueAt s q)) (hroom : queueCount s.build (queueAt s q) < s.build.QCAP) (h : Handle) :
    queueAt (queuePush q h s) q = storedQueue s.build h (queueAt s q) := by
  rw [queuePush_of_room (mt (nextIndex_head_eq_tail_iff hs).1 hroom.ne)]
  exact queueAt_of_set hq rfl

theorem queueAt_queuePush_of_full {s : State} {q : Nat} (hq : q < s.queues.length)
    (hs : QueueShaped s.build (queueAt s q)) (hfull : queueCount s.build (queueAt s q) = s.build.QCAP) (h : Handle) :
    queueAt (queuePush q h s) q = droppedQueue (queueAt s q) := by
  rw [queuePush_of_full ((nextIndex_head_eq_tail_iff hs).2 hfull)]
  exact queueAt_of_set hq rfl

theorem queueAt_borrowOldest {s : State} {q : Nat} (hq : q < s.queues.length) (hidle : (queueAt s q).borrow = false)
    (hne : (queueAt s q).head ≠ (queueAt s q).tail) :
    queueAt (borrowOldest q s) q = { queueAt s q with borrow := true } := by
  rw [borrowOldest_of_queued hidle hne]
  exact queueAt_of_set hq rfl

/-- A pop is the borrow and the return of the oldest block (R154). -/
theorem popQueue_of_queued {s : State} {q : Nat} (hq : q < s.queues.length) (hidle : (queueAt s q).borrow = false)
    (hne : (queueAt s q).head ≠ (queueAt s q).tail) :
    popQueue q s =
      { s with
        result := 1
        queues := s.queues.set q (returnedQueue s.build (queueAt s q))
        free := (release (queueOldest (queueAt s q)) s).free } := by
  have hlent := queueAt_borrowOldest hq hidle hne
  rw [popQueue, returnLent_of_lent (by rw [hlent]), hlent, borrowOldest_of_queued hidle hne]
  simp only [setResult_queues, setQueue_queues, List.set_set]
  congr 1
  exact release_free_congr _ rfl

theorem queueAt_popQueue {s : State} {q : Nat} (hq : q < s.queues.length) (hidle : (queueAt s q).borrow = false)
    (hne : (queueAt s q).head ≠ (queueAt s q).tail) :
    queueAt (popQueue q s) q = returnedQueue s.build (queueAt s q) := by
  rw [popQueue_of_queued hq hidle hne]
  exact queueAt_of_set hq rfl

/-- Settles O20: the operations on the queued blocks. -/
theorem queueRefinesABoundedFifo : Obligations.QueueRefinesABoundedFifo := by
  intro s q h u _ hu hs _ blocks
  obtain rfl := queueAt_of_getElem? hu
  have hq : q < s.queues.length := (List.getElem?_eq_some_iff.1 hu).1
  simp only [blocks, queuedBlocks_length]
  refine ⟨fun hroom => ?_, fun hfull => ?_, queueCount_le _ _, fun k rest hidle hblocks => ?_⟩
  · rw [queuePush_build, queueAt_queuePush_of_room hq hs hroom, queuedBlocks_storedQueue hs hroom]
  · rw [queuePush_build, queueAt_queuePush_of_full hq hs hfull]
    rfl
  · have hne : (queueAt s q).head ≠ (queueAt s q).tail := by
      rw [Ne, ← queueCount_eq_zero_iff hs, ← queuedBlocks_length, hblocks]
      exact Nat.succ_ne_zero _
    obtain ⟨holdest, hrest⟩ := List.cons.inj ((queuedBlocks_returnedQueue hs hne).symm.trans hblocks)
    refine ⟨?_, ?_, ?_, ?_⟩
    · rw [borrowOldest_of_queued hidle hne, holdest]
      rfl
    · rw [queueAt_borrowOldest hq hidle hne, borrowOldest_frame]
      rfl
    · rw [queueAt_popQueue hq hidle hne, popQueue_of_queued hq hidle hne]
      exact hrest
    · rw [queueAt_popQueue hq hidle hne]
      rfl

-- The count law

/-- Queue q exists, with n blocks queued, none of them lent, and `d` dropped so far. -/
structure HoldsBlocks (b : Build) (q : Nat) (d : Word) (n : Nat) (s : State) : Prop where
  build : s.build = b
  index : q < s.queues.length
  shaped : QueueShaped b (queueAt s q)
  idle : (queueAt s q).borrow = false
  drop : (queueAt s q).drop = d
  count : queueCount b (queueAt s q) = n

theorem holdsBlocks_of_set {b : Build} {q n : Nat} {d : Word} {s t : State} {u : Queue} (hbuild : t.build = b)
    (hq : q < s.queues.length) (hset : t.queues = s.queues.set q u) (hshaped : QueueShaped b u)
    (hidle : u.borrow = false) (hdrop : u.drop = d) (hcount : queueCount b u = n) : HoldsBlocks b q d n t := by
  obtain rfl := queueAt_of_set hq hset
  exact ⟨hbuild, by rwa [hset, List.length_set], hshaped, hidle, hdrop, hcount⟩

theorem HoldsBlocks.push {b : Build} {q n : Nat} {d : Word} {s : State} (hs : HoldsBlocks b q d n s)
    (hroom : n < b.QCAP) (h : Handle) : HoldsBlocks b q d (n + 1) (queuePush q h s) := by
  obtain ⟨rfl, hq, hshaped, hidle, hdrop, rfl⟩ := hs
  rw [queuePush_of_room (mt (nextIndex_head_eq_tail_iff hshaped).1 hroom.ne)]
  exact holdsBlocks_of_set rfl hq rfl (storedQueue_shaped hshaped h) hidle hdrop
    (queueCount_storedQueue hshaped hroom h)

theorem HoldsBlocks.pop {b : Build} {q n : Nat} {d : Word} {s : State} (hs : HoldsBlocks b q d (n + 1) s) :
    HoldsBlocks b q d n (popQueue q s) := by
  obtain ⟨rfl, hq, hshaped, hidle, hdrop, hcount⟩ := hs
  have hne : (queueAt s q).head ≠ (queueAt s q).tail := by
    rw [Ne, ← queueCount_eq_zero_iff hshaped, hcount]
    exact Nat.succ_ne_zero n
  rw [queueCount_returnedQueue hshaped hne] at hcount
  rw [popQueue_of_queued hq hidle hne]
  exact holdsBlocks_of_set rfl hq rfl (returnedQueue_shaped hshaped) rfl hdrop (Nat.succ.inj hcount)

/-- The count law (R367): the state after the operations, where no pop meets an empty queue and no push a full one. -/
theorem HoldsBlocks.run {b : Build} {q n : Nat} {d : Word} {ops : List Slot} {s : State} (hs : HoldsBlocks b q d n s)
    (hmeet : popsMeetBlocks n ops = true) (hcap : n + ops.countP Option.isSome ≤ b.QCAP) :
    HoldsBlocks b q d (n + ops.countP Option.isSome - ops.countP Option.isNone) (runQueue q ops s) := by
  induction ops generalizing n s with
  | nil => exact hs
  | cons o ops ih =>
    cases o with
    | some h =>
      simp only [List.countP_cons, Option.isSome_some, Option.isNone_some, if_true, Bool.false_eq_true, if_false,
        Nat.add_zero] at hcap ⊢
      have hrun := ih (hs.push (by omega) h) hmeet (by omega)
      rwa [Nat.add_right_comm] at hrun
    | none =>
      cases n with
      | zero => exact absurd hmeet Bool.false_ne_true
      | succ n =>
        simp only [List.countP_cons, Option.isSome_none, Option.isNone_none, if_true, Bool.false_eq_true, if_false,
          Nat.add_zero] at hcap ⊢
        have hrun := ih hs.pop hmeet (by omega)
        rwa [← Nat.add_sub_add_right _ 1, Nat.add_right_comm] at hrun

/-- Settles O21: from an empty queue, `HoldsBlocks` is kept by each push and pop. -/
theorem queueCountIsPushesMinusPops : Obligations.QueueCountIsPushesMinusPops := by
  intro s q u ops _ hu hs hempty hidle hmeet hcap
  obtain rfl := queueAt_of_getElem? hu
  have hstart : HoldsBlocks s.build q (queueAt s q).drop 0 s :=
    ⟨rfl, (List.getElem?_eq_some_iff.1 hu).1, hs, hidle, rfl, (queueCount_eq_zero_iff hs).2 hempty⟩
  have hend := hstart.run hmeet ((Nat.zero_add _).trans_le hcap)
  rw [Nat.zero_add] at hend
  exact ⟨hend.count, hend.drop⟩

end Sys2Proof.Machine
end

section
/-! The session commands (46_host_control.md R400-R403): what each makes of RUN and RESULT, and what START empties. -/

namespace Sys2Proof.Machine

/-- Settles O10: the word 0 is NOP's row, and NOP's next state is the state itself. -/
theorem nopChangesNothing : Obligations.NopChangesNothing :=
  ⟨by decide, fun _ => rfl⟩

-- START

/-- The blocks that START releases (R401). -/
theorem mem_sessionPlaces {s : State} {o : Slot} :
    o ∈ sessionPlaces s ↔
      ∃ c < s.build.N, (∃ k < s.build.DCAP, slotAt (dlRow s c) k = o) ∨ slotAt s.muxIn c = o := by
  simp [sessionPlaces, eq_comm]

/-- START while a session runs (R401). -/
theorem execStart_of_run {s : State} (h : s.run = true) : execStart s = .next (setResult 0 s) := if_pos h

/-- START while no session runs (R401). -/
theorem execStart_of_stopped {s : State} (h : s.run = false) : execStart s = .next (beginSession s) :=
  if_neg (ne_true_of_eq_false h)

/-- Settles O11: the two arms of R401; the released blocks are those of the session's places. -/
theorem startBeginsASession : Obligations.StartBeginsASession := by
  refine ⟨by decide, fun s => ⟨execStart_of_run, fun hstopped => ?_⟩⟩
  refine ⟨(releaseAll (sessionPlaces s) s).free, ?_, ?_⟩
  · exact (execStart_of_stopped hstopped).trans (congrArg _ (beginSession_frame s))
  · have hreleased := releasedBlocks_releaseAll (sessionPlaces s) s
    simp only [mem_sessionPlaces] at hreleased
    exact hreleased

-- STOP and DETRST

/-- Settles O12: STOP's next state is the one stated. -/
theorem stopEndsTheSession : Obligations.StopEndsTheSession :=
  ⟨by decide, fun _ => rfl⟩

/-- Settles O13: the model negates INHIB as a word, which is the word of the negated number. -/
theorem detrstReinitialisesTheDetector : Obligations.DetrstReinitialisesTheDetector := by
  refine ⟨by decide, fun s => ?_⟩
  rw [BitVec.ofInt_neg, BitVec.ofInt_toInt]
  rfl

end Sys2Proof.Machine
end

section
/-! Words of no instruction, and the command in a write to CMD (30_encoding.md R150, R151, 46_host_control.md R410,
R411). -/

namespace Sys2Proof.Machine

-- Command words

/-- A word that decodes at the CMD port decodes to a command (R140, R147). -/
theorem exists_command_of_decode {w : Word} {i : Instr} (h : decode (.cmd w) = .ok i) :
    ∃ c, decodeCmd w = some c ∧ c.toInstr = i := by
  rw [decode] at h
  split at h
  · rename_i c hc
    exact ⟨c, hc, Except.ok.inj h⟩
  · cases h

/-- A word outside every row selects no command: each row's test fails (R150). -/
theorem decodeCmd_of_reserved {w : Word} (h : isReservedCmd w = true) : decodeCmd w = none := by
  simp only [isReservedCmd, Bool.and_eq_true, bne_iff_ne] at h
  obtain ⟨⟨⟨⟨⟨⟨⟨hnop, hstart⟩, hstop⟩, hdetrst⟩, hqavail⟩, hqread⟩, hqfree⟩, hqclear⟩ := h
  simp only [decodeCmd, matchesRow_full, matchesRow_iff w 0xFFF0FFFF]
  rw [if_neg hnop, if_neg hstart, if_neg hstop, if_neg hdetrst, if_neg hqavail, if_neg hqread, if_neg hqfree,
    if_neg hqclear]

/-- A 4-byte write to CMD runs its word (R410). -/
theorem exec_wr32_cmd (w : Word) (s : State) : exec (.wr32 0x014 w) s = runCommandWord w s :=
  exec_wr32_of_regAt (r := .cmd) w rfl (by decide) (by decide)

/-- Settles O31: a decoded word runs as its command, where O14 refuses a bad queue index; a word of no row is
refused. -/
theorem commandWriteRunsTheCommand : Obligations.CommandWriteRunsTheCommand := by
  intro s w
  have hcommand (i : Instr) (hi : decode (.cmd w) = .ok i) : exec (.wr32 0x014 w) s = exec i s := by
    obtain ⟨c, hc, rfl⟩ := exists_command_of_decode hi
    rw [exec_wr32_cmd, runCommandWord_of_decodeCmd hc]
  refine ⟨hcommand, fun q hq hmem => ?_, fun hreserved => ?_⟩
  · obtain ⟨i, hi, hdecode⟩ :
        ∃ i ∈ [Instr.qavail q, .qread q, .qfree q, .qclear q], decode (.cmd w) = .ok i := by simpa using hmem
    rw [hcommand i hdecode]
    exact queueCommandsRefuseBadIndex s q hq i hi
  · rw [exec_wr32_cmd, runCommandWord_of_reserved (decodeCmd_of_reserved hreserved)]
    rfl

-- Rejected inputs as steps

/-- The step of a valid build whose next input is no instruction. -/
theorem step_of_rejected {s : State} {p : Input} {rest : List Input} {r : Reject} (hvalid : buildValid s.build = true)
    (hin : s.inputs = p :: rest) (hp : decode p = .error r) : step s = rejected r { s with inputs := rest } := by
  simp only [step, if_pos hvalid, nextInput, hin, hp]

/-- The mask 0x40000 asks for W (R142). -/
theorem and_write_mask_eq_zero_iff (desc : BitVec 19) : desc &&& 0x40000 = 0 ↔ desc.getLsbD 18 = false := by
  change desc &&& BitVec.twoPow 19 18 = 0 ↔ _
  rw [BitVec.and_twoPow]
  cases desc.getLsbD 18 <;> decide

/-- Settles O7: each word is decoded to the reason why it is no instruction, whose effect is the one stated. -/
theorem reservedWordsHaveTheirStatedEffect : Obligations.ReservedWordsHaveTheirStatedEffect := by
  intro s rest hvalid
  refine ⟨fun w hw hin => ?_, fun desc data hSZ hin => ?_, fun beat hV hin => ?_, fun hin => ?_, fun hin => ?_,
    fun hin => ?_, fun hin => ?_⟩
  · exact step_of_rejected (r := .reservedCmd) hvalid hin (by rw [decode, decodeCmd_of_reserved hw])
  · have hdecode : decode (.bus desc data) = .error (.reservedBus (desc.getLsbD 18)) :=
      decodeBus_of_reserved data (getLsbD_of_and_eq hSZ (by decide)) (getLsbD_of_and_eq hSZ (by decide))
    rw [step_of_rejected hvalid hin hdecode]
    simp only [and_write_mask_eq_zero_iff]
    cases desc.getLsbD 18 <;> rfl
  · exact step_of_rejected hvalid hin ((beatsEventsAndPhasesSelectTheirRow.1 beat).2 hV)
  · exact step_of_rejected (r := .noEvent) hvalid hin rfl
  · exact step_of_rejected (r := .reservedEvt) hvalid hin rfl
  · exact step_of_rejected (r := .reservedPhase) hvalid hin rfl
  · exact step_of_rejected (r := .reservedPhase) hvalid hin rfl

end Sys2Proof.Machine
end

section
/-! Which bus accesses are refused (46_host_control.md R420-R425): the mapped and the writable offsets against the
register map, then what each access does, refused or performed. -/

namespace Sys2Proof.Machine

-- The register map

/-- A 4-byte write to the register is performed (R40, R423). -/
def Reg.writable (r : Reg) : Bool := r.access != .readOnly

/-- The global registers stand at the multiples of 4 up to 0x064 (R40-R56). -/
theorem isSome_globalReg_iff (a : Nat) : (globalReg a).isSome = true ↔ a % 4 = 0 ∧ a ≤ 0x064 := by
  unfold globalReg
  split
  case h_27 => simp only [imp_false] at *; simp; omega
  all_goals decide

/-- A write reaches CTRL, STATUS, CMD and SHIFT to DELAY (R43-R53). -/
theorem writable_globalReg_iff (a : Nat) : (globalReg a).any Reg.writable = true ↔
    a ∈ [0x00C, 0x010, 0x014, 0x01C, 0x020, 0x024, 0x028, 0x02C, 0x030, 0x034, 0x038] := by
  unfold globalReg
  split
  case h_27 => simp only [imp_false] at *; simp; omega
  all_goals decide

/-- A channel's four registers (R57). -/
theorem isSome_chanReg_iff (c : Nat) {k : Nat} (hk : k < 16) : (chanReg c k).isSome = true ↔ k % 4 = 0 := by
  unfold chanReg
  split
  case h_5 => simp only [imp_false] at *; simp; omega
  all_goals simp

/-- A write reaches NEST (R57). -/
theorem writable_chanReg_iff (c k : Nat) : (chanReg c k).any Reg.writable = true ↔ k = 0 := by
  unfold chanReg
  split <;> simp_all [Reg.writable, Reg.access]

/-- A queue's three registers (R58). -/
theorem isSome_queueReg_iff (q : Nat) {k : Nat} (hk : k < 16) :
    (queueReg q k).isSome = true ↔ k % 4 = 0 ∧ k ≠ 0xC := by
  unfold queueReg
  split
  case h_4 => simp only [imp_false] at *; simp; omega
  all_goals simp

/-- A write reaches no register of a queue (R58). -/
theorem not_writable_queueReg (q k : Nat) : (queueReg q k).any Reg.writable = false := by
  unfold queueReg
  split <;> rfl

/-- A register stands at each mapped offset and at no other (R57-R59, R117). -/
theorem isSome_regAt (b : Build) (a : Nat) : (regAt b a).isSome = mappedOffset b a := by
  have hk : a % 16 < 16 := Nat.mod_lt a (by decide)
  rw [Bool.eq_iff_iff, regAt]
  split_ifs <;> simp [mappedOffset, isSome_globalReg_iff, isSome_chanReg_iff _ hk, isSome_queueReg_iff _ hk] <;> omega

/-- A register that a 4-byte write reaches stands at each writable offset and at no other (R423). -/
theorem any_writable_regAt (b : Build) (a : Nat) : (regAt b a).any Reg.writable = writableOffset b a := by
  rw [Bool.eq_iff_iff, regAt]
  split_ifs <;> simp [writableOffset, writable_globalReg_iff, writable_chanReg_iff, not_writable_queueReg] <;> omega

-- The two outcomes of an access

/-- What an access does: refused, it raises BUSERR and a read returns 0 (R425); performed, it completes and leaves
BUSERR clear if it was. -/
inductive AccessOutcome (s : State) (i : Instr) : Bool → Prop
  | refused (h : exec i s = .next (if isRead i then refuseRead s else refuseWrite s)) : AccessOutcome s i true
  | performed {t : State} (h : exec i s = .next t) (herr : t.err.buserr = true → s.err.buserr = true) :
      AccessOutcome s i false

/-- An access that is performed under a condition, and refused otherwise. -/
theorem AccessOutcome.of_ite {s t : State} {i : Instr} {c : Prop} [Decidable c]
    (h : exec i s = .next (if c then t else if isRead i then refuseRead s else refuseWrite s))
    (herr : t.err.buserr = true → s.err.buserr = true) : AccessOutcome s i (!decide c) := by
  by_cases hc : c
  · rw [decide_eq_true hc]
    exact .performed (h.trans (congrArg _ (if_pos hc))) herr
  · rw [decide_eq_false hc]
    exact .refused (h.trans (congrArg _ (if_neg hc)))

-- Reads

theorem readSampleOne_err (g : Nat) (s : State) : (readSampleOne g s).err = s.err := by
  obtain ⟨v, k, hread⟩ := hostSample_cases s g
  rw [readSampleOne, hread]
  rfl

theorem readSamplePair_err (g : Nat) (s : State) : (readSamplePair g s).err = s.err := by
  obtain ⟨lo, k, hreadLo⟩ := hostSample_cases s g
  obtain ⟨hi, k', hreadHi⟩ := hostSample_cases { s with draws := k } (g + 1)
  rw [readSamplePair, hreadLo, hreadHi]
  rfl

/-- An aligned 4-byte read from 0x8000 on goes to the pool window (R105). -/
theorem exec_rd32_of_pool_window {s : State} {a : BitVec 16} (halign : a.toNat % 4 = 0) (hlo : 0x8000 ≤ a.toNat) :
    exec (.rd32 a) s = .next (readPoolWindow a.toNat s) := by
  change execRd32 a s = _
  rw [execRd32, if_neg (not_not.2 halign), if_neg (by omega), if_neg (not_lt.2 hlo)]

/-- A 4-byte read is refused for its alignment, or by the window that its offset is in (R420). -/
theorem rd32_outcome (a : BitVec 16) (s : State) : AccessOutcome s (.rd32 a) (accessRefused s.build (.rd32 a)) := by
  by_cases halign : a.toNat % 4 = 0
  case neg =>
    have hrefused : accessRefused s.build (.rd32 a) = true := by simp [accessRefused, mappedOffset, halign]
    rw [hrefused]
    exact .refused (exec_rd32_of_misaligned halign)
  by_cases hreg : a.toNat < 0x4000
  · have hrefused : accessRefused s.build (.rd32 a) = !(regAt s.build a.toNat).isSome := by
      simp [accessRefused, isSome_regAt, hreg, not_le.2 hreg, show ¬ 0x8000 ≤ a.toNat by omega]
    rw [hrefused]
    cases hr : regAt s.build a.toNat with
    | some r => exact .performed (readsAs_of_regAt hr halign hreg) id
    | none => exact .refused (exec_rd32_of_regAt_none hr hreg)
  by_cases hraw : a.toNat < 0x8000
  · have hrefused : accessRefused s.build (.rd32 a) = !decide ((a.toNat - 0x4000) / 4 < 2 * s.build.H) := by
      simp [accessRefused, halign, hreg, hraw, not_lt.1 hreg, not_le.2 hraw]
    rw [hrefused]
    exact .of_ite (exec_rd32_of_raw halign (not_lt.1 hreg) hraw) id
  · have hrefused : accessRefused s.build (.rd32 a) =
        !decide ((a.toNat - 0x8000) / 2 + 1 < s.build.NBLK * s.build.L) := by
      simp [accessRefused, halign, hreg, hraw, not_lt.1 hraw]
    rw [hrefused]
    exact .of_ite (exec_rd32_of_pool_window halign (not_lt.1 hraw)) (by rw [readSamplePair_err]; exact id)

/-- A 2-byte read is performed at an aligned offset of the pool alone (R421). -/
theorem rd16_outcome (a : BitVec 16) (s : State) : AccessOutcome s (.rd16 a) (accessRefused s.build (.rd16 a)) := by
  have hrefused : accessRefused s.build (.rd16 a) =
      !decide (0x8000 ≤ a.toNat ∧ a.toNat % 2 = 0 ∧ (a.toNat - 0x8000) / 2 < s.build.NBLK * s.build.L) := by
    simp [accessRefused, Bool.or_assoc]
  rw [hrefused]
  refine .of_ite (t := readSampleOne ((a.toNat - 0x8000) / 2) s) ?_ (by rw [readSampleOne_err]; exact id)
  exact (apply_ite _ _ _ _).symm

-- Writes

/-- Every command completes, and none touches BUSERR (R365, R400-R403). -/
theorem command_completes (c : Command) (s : State) :
    ∃ t, exec c.toInstr s = .next t ∧ t.err.buserr = s.err.buserr := by
  have hqueue {q : Nat} {f : State → State} (hf : (f s).err = s.err) :
      ∃ t, onQueue q f s = .next t ∧ t.err.buserr = s.err.buserr := by
    obtain hq | hq := lt_or_ge q s.build.NQ
    · exact ⟨_, onQueue_of_lt hq f, congrArg _ hf⟩
    · exact ⟨_, onQueue_of_le hq f, rfl⟩
  cases c with
  | nop => exact ⟨_, rfl, rfl⟩
  | start =>
    cases hrun : s.run with
    | true => exact ⟨_, execStart_of_run hrun, rfl⟩
    | false => exact ⟨_, execStart_of_stopped hrun, by rw [beginSession_frame]⟩
  | stop => exact ⟨_, rfl, rfl⟩
  | detrst => exact ⟨_, rfl, rfl⟩
  | qavail q => exact hqueue rfl
  | qread q => exact hqueue (by rw [borrowOldest_frame])
  | qfree q => exact hqueue (by rw [returnLent_frame])
  | qclear q => exact hqueue (by rw [drainQueue_frame])

/-- A write to a register that is not read-only completes and does not raise BUSERR (R423). -/
theorem writeRegister_completes {r : Reg} (hr : r.writable = true) (d : Word) (s : State) :
    ∃ t, writeRegister r d s = .next t ∧ (t.err.buserr = true → s.err.buserr = true) := by
  unfold writeRegister
  obtain hacc | hacc | ⟨hacc, -⟩ | ⟨hacc, -⟩ := access_cases r
  · simp [Reg.writable, hacc] at hr
  · rw [hacc]
    refine ⟨_, rfl, ?_⟩
    unfold hostConfigWrite
    split
    · rw [writeConfig_frame]
      exact id
    · exact id
  · rw [hacc]
    exact ⟨_, rfl, fun h => (Bool.and_eq_true_iff.1 h).1⟩
  · rw [hacc]
    cases hd : decodeCmd d with
    | none => exact ⟨_, runCommandWord_of_reserved hd s, id⟩
    | some c =>
      obtain ⟨t, ht, herr⟩ := command_completes c s
      exact ⟨t, (runCommandWord_of_decodeCmd hd s).trans ht, herr.le⟩

/-- A 4-byte write that names no register is refused (R117, R425). -/
theorem exec_wr32_of_regAt_none {s : State} {a : BitVec 16} (d : Word) (hr : regAt s.build a.toNat = none) :
    exec (.wr32 a d) s = .next (refuseWrite s) := by
  change execWr32 a d s = _
  unfold execWr32
  rw [hr]
  exact ite_self _

/-- A 4-byte write is refused where no register stands that takes it (R423). -/
theorem wr32_outcome (a : BitVec 16) (d : Word) (s : State) :
    AccessOutcome s (.wr32 a d) (accessRefused s.build (.wr32 a d)) := by
  have hrefused : accessRefused s.build (.wr32 a d) = !(regAt s.build a.toNat).any Reg.writable := by
    rw [any_writable_regAt, accessRefused]
  rw [hrefused]
  cases hr : regAt s.build a.toNat with
  | none => exact .refused (exec_wr32_of_regAt_none d hr)
  | some r =>
    have hmapped : mappedOffset s.build a.toNat = true := by rw [← isSome_regAt, hr, Option.isSome_some]
    have hoffset : a.toNat % 4 = 0 ∧ a.toNat < 0x4000 := by simp [mappedOffset] at hmapped; omega
    have hexec := exec_wr32_of_regAt d hr hoffset.1 hoffset.2
    cases hw : r.writable with
    | true =>
      obtain ⟨t, ht, herr⟩ := writeRegister_completes hw d s
      rw [Option.any_some, hw]
      exact .performed (hexec.trans ht) herr
    | false =>
      rw [Option.any_some, hw]
      refine .refused (hexec.trans ?_)
      rw [writeRegister, show r.access = .readOnly by simpa [Reg.writable] using hw]
      rfl

/-- Settles O28: each access has the outcome of its kind. -/
theorem accessesAreRefusedExactlyAsStated : Obligations.AccessesAreRefusedExactlyAsStated := by
  intro s i hi
  have houtcome : AccessOutcome s i (accessRefused s.build i) := by
    cases i with
    | rd32 a => exact rd32_outcome a s
    | rd16 a => exact rd16_outcome a s
    | wr32 a d => exact wr32_outcome a d s
    | rd8 | wr16 | wr8 => exact .refused rfl
    | _ => cases hi
  refine ⟨fun hrefused => ?_, fun hperformed => ?_⟩
  · rw [hrefused] at houtcome
    cases houtcome with
    | refused h =>
      rw [h]
      cases isRead i <;> rfl
  · rw [hperformed] at houtcome
    cases houtcome with
    | performed h herr => exact ⟨_, h, herr⟩

end Sys2Proof.Machine
end

section
/-! The samples of a queued block (20_memory.md R107, 45_record_queue.md R368, 70_reset_and_hazards.md R513): until the
sink of a tick pushes, the queues are as they were, so that a queued block is neither current nor free; the ISR writes
current blocks alone, and the multiplexer blocks that were free. -/

namespace Sys2Proof.Machine

-- Where a queued block is not

/-- Block h is in a slot of some queue (R66). -/
def Enqueued (h : Handle) (s : State) : Prop := some h ∈ (s.queues.map Queue.slots).flatten

theorem enqueued_of_queueOldest {s : State} {q : Nat} {h : Handle} (hq : q < s.queues.length)
    (hold : queueOldest (queueAt s q) = some h) : Enqueued h s := by
  rw [queueAt_of_getElem? (List.getElem?_eq_getElem hq)] at hold
  exact List.mem_flatten_of_mem (List.mem_map_of_mem (List.getElem_mem hq)) (mem_of_slotAt hold)

/-- A queued block is in no current slot, and is not free (R70). -/
theorem Sound.apart_of_enqueued {s : State} {h : Handle} (hs : Sound [] s) (hq : Enqueued h s) :
    some h ∉ s.acqCur ∧ s.free.getD h false = false := by
  have hqueued := List.count_pos_iff.2 hq
  have hacc := hs.accounted h
  rw [count_places] at hacc
  have hone : s.acqCur.count (some h) + freeBit s h = 0 := by
    split_ifs at hacc <;> omega
  obtain ⟨hcur, hfree⟩ := Nat.add_eq_zero_iff.1 hone
  exact ⟨List.count_eq_zero.1 hcur, Bool.toNat_eq_zero.1 hfree⟩

-- What keeps the samples of a block

/-- From s to t the build, which places the samples, and every sample of block h are kept. -/
structure KeepsBlock (h : Handle) (s t : State) : Prop where
  build : t.build = s.build
  samples : ∀ i < s.build.L, poolSample t h i = poolSample s h i

theorem KeepsBlock.trans {h : Handle} {s t u : State} (hst : KeepsBlock h s t) (htu : KeepsBlock h t u) :
    KeepsBlock h s u :=
  ⟨htu.build.trans hst.build, fun i hi => (htu.samples i (hst.build ▸ hi)).trans (hst.samples i hi)⟩

/-- The elements of state that samples are read from. -/
def sampleStore (s : State) : Build × Nat × Memory := (s.build, s.boots, s.mem)

theorem keepsBlock_of_sampleStore {s t : State} (h : Handle) (hstore : sampleStore t = sampleStore s) :
    KeepsBlock h s t := by
  simp only [sampleStore, Prod.mk.injEq] at hstore
  obtain ⟨hbuild, hboots, hmem⟩ := hstore
  refine ⟨hbuild, fun i _ => ?_⟩
  simp only [poolSample, plin, readHalf, readByte, hbuild, hboots, hmem]

/-- The ISR writes current blocks alone (R230). -/
theorem isrPhase_keepsBlock {s : State} {h : Handle} (hcur : some h ∉ s.acqCur) : KeepsBlock h s (isrPhase s) := by
  refine ⟨by rw [isrPhase_frame], fun i hi => ?_⟩
  unfold isrPhase
  split
  · refine (List.foldlRecOn (motive := fun u => DuringIsr s u ∧ poolSample u h i = poolSample s h i) _ _
      ⟨duringIsr_refl s, rfl⟩ fun u ⟨hu, hsample⟩ c _ => ⟨hu.afterChannel c, ?_⟩).2
    refine (poolSample_demuxChannel_other (hu.build ▸ hi) fun hc => hcur ?_).trans hsample
    exact mem_of_slotAt (hu.acqCur ▸ hc)
  · rfl

/-- An emission writes its output blocks alone (R334). -/
theorem muxEmit_keepsBlock {os : List Handle} {h : Handle} (hh : h ∉ os) (s : State) :
    KeepsBlock h s (muxEmit os s) := by
  have hcopy := wroteBlocks_muxWrite os s
  refine KeepsBlock.trans ⟨hcopy.build, fun i => hcopy.poolSample_eq hh⟩ (keepsBlock_of_sampleStore h ?_)
  rw [muxEmit, muxEmpty_frame, pushEach_frame]
  rfl

/-- The output blocks of a frame were free (R110, R334). -/
theorem muxFrame_keepsBlock {s : State} {h : Handle} (hfree : s.free.getD h false = false) :
    KeepsBlock h s (muxFrame s) := by
  obtain he | he | he := muxFrame_cases s <;> rw [he]
  · exact keepsBlock_of_sampleStore h rfl
  · rw [muxPoolFailed, muxEmpty_frame]
    exact keepsBlock_of_sampleStore h rfl
  · obtain ⟨-, htook, -⟩ := allocEach_tookBlocks s.build.N s
    have hnot : h ∉ (allocEach s.build.N s).1 := fun hm => Bool.false_ne_true (hfree.symm.trans (htook h hm).2)
    refine KeepsBlock.trans (keepsBlock_of_sampleStore h ?_) (muxEmit_keepsBlock hnot _)
    rw [allocEach_frame]
    rfl

-- The tick

/-- The sink writes no sample of a queued block: the multiplexer allocates before it pushes (R334, R336). -/
theorem sinkPhases_keepsBlock {s : State} {h : Handle} (hs : Sound [] s) (hq : Enqueued h s) :
    KeepsBlock h s (sinkPhases s) := by
  unfold sinkPhases muxPhase
  split
  · have hqueued : Enqueued h (muxAcceptAll s) := by
      rw [muxAcceptAll_frame]
      exact hq
    refine KeepsBlock.trans (keepsBlock_of_sampleStore h ?_)
      (muxFrame_keepsBlock ((muxAcceptAll_sound hs).apart_of_enqueued hqueued).2)
    rw [muxAcceptAll_frame]
    rfl
  · rw [pushAll_frame]
    exact keepsBlock_of_sampleStore h rfl

/-- A tick comes to its sink in a sound state, with the samples as the ISR left them and the queues as they were
(R203, R204). -/
theorem tick_reaches_sink {s t : State} (hs : BlockInvariant s) (ht : tick s = .next t) :
    ∃ u, t = endTick (sinkPhases u) ∧ Sound [] u ∧ sampleStore u = sampleStore (isrPhase s) ∧
      u.queues = s.queues := by
  have hsound := sound_of_blockInvariant hs
  obtain ⟨-, hquiet, hall, -⟩ := hs
  have hisr : InTick (isrPhase s) := phase_inTick .isr (by decide) ⟨hsound, hall⟩
  have hflow : Vacant (isrPhase s).flow := by
    rw [isrPhase_frame]
    simp only [hquiet.2]
    exact vacant_noBlocks _
  have hacq : InTick (acqPhase (isrPhase s)) := acqPhase_sound hisr.1 hisr.2 hflow
  have hqueues : (isrPhase s).queues = s.queues := by rw [isrPhase_frame]
  obtain rfl | ⟨u, hu, rfl⟩ := tick_cases ht
  · refine ⟨_, rfl, hacq.1, ?_⟩
    rw [acqPhase_frame]
    exact ⟨rfl, hqueues⟩
  · have hdet : InTick u := phase_inTick (detPhase_effect hu) (by decide) (phase_inTick .dl (by decide) hacq)
    refine ⟨u, rfl, hdet.1, ?_⟩
    obtain rfl | rfl := detPhase_cases hu
    · rw [discardFlow_frame, dlPhase_frame, acqPhase_frame]
      exact ⟨rfl, hqueues⟩
    · rw [detUpdate_frame, dlPhase_frame, acqPhase_frame]
      exact ⟨rfl, hqueues⟩

/-- A tick writes no sample of a block that is queued when it begins. -/
theorem tick_keepsBlock {s t : State} {h : Handle} (hs : BlockInvariant s) (hq : Enqueued h s)
    (ht : tick s = .next t) : KeepsBlock h s t := by
  obtain ⟨u, rfl, hu, hstore, hqueues⟩ := tick_reaches_sink hs ht
  have hcur := ((sound_of_blockInvariant hs).apart_of_enqueued hq).1
  have hqueued : Enqueued h u := by
    rw [Enqueued, hqueues]
    exact hq
  have hsource : KeepsBlock h s u := (isrPhase_keepsBlock hcur).trans (keepsBlock_of_sampleStore h hstore)
  have hsink : KeepsBlock h u (endTick (sinkPhases u)) :=
    (sinkPhases_keepsBlock hu hqueued).trans (keepsBlock_of_sampleStore h rfl)
  exact hsource.trans hsink

-- Every step

/-- A beat writes the raw window alone (R117, R200). -/
theorem storeBeat_keepsBlock {s : State} (hs : Shaped s) (d : Word) (h : Handle) : KeepsBlock h s (storeBeat d s) := by
  obtain ⟨hvalid, -, -, -, hpos, -⟩ := hs
  obtain ⟨-, -, -, -, -, -, -, -, -, -, -, hframe, -⟩ := (buildValid_iff s.build).1 hvalid
  have hraw : s.dmaPos < 4096 := by
    unfold Build.H at hpos
    omega
  exact ⟨by rw [storeBeat_frame], fun i _ => plin_writeRaw _ s.dmaPos d s hraw⟩

/-- Every effect but a power cycle and a bare phase keeps the samples of a queued block. -/
theorem effect_keepsBlock {s t : State} {x : Except Reject Instr} {h : Handle} (he : Effect s x t)
    (hs : BlockInvariant s) (hq : Enqueued h s) (hphase : ∀ {i : Instr}, x = .ok i → ¬ PhaseEffect s i t)
    (hx : x ≠ .error .powerCycle) : KeepsBlock h s t := by
  cases he with
  | beat d => exact storeBeat_keepsBlock hs.1 d h
  | completed d k =>
    rw [complete_frame]
    exact (storeBeat_keepsBlock hs.1 d h).trans (keepsBlock_of_sampleStore h rfl)
  | ticked k ht =>
    exact KeepsBlock.trans (t := { s with evPend := false }) (keepsBlock_of_sampleStore h rfl)
      (tick_keepsBlock hs hq ht)
  | phase hp => exact absurd hp (hphase rfl)
  | power => exact absurd rfl hx
  | configured a d r => rw [writeConfig_frame]; exact keepsBlock_of_sampleStore h rfl
  | began => rw [beginSession_frame]; exact keepsBlock_of_sampleStore h rfl
  | borrowed _ q => rw [borrowOldest_frame]; exact keepsBlock_of_sampleStore h rfl
  | returned _ q => rw [returnLent_frame]; exact keepsBlock_of_sampleStore h rfl
  | drained _ q => rw [drainQueue_frame]; exact keepsBlock_of_sampleStore h rfl
  | _ => exact keepsBlock_of_sampleStore h rfl

/-- Settles O60: the lent block is queued when the step begins; that it is still lent afterwards is not needed. -/
theorem lentBlocksAreStable : Obligations.LentBlocksAreStable := by
  intro s t q h hs hphase hpower hstep hq _ hold _ _ i hi
  have hqueued : Enqueued h s := enqueued_of_queueOldest (hq.trans_eq (queues_length hs.1).symm) hold
  obtain rfl | ⟨p, rest, hin, he⟩ := step_effect hstep
  · rfl
  · have hkeep := effect_keepsBlock he hs hqueued (fun hp heffect => ?_) (ne_powerCycle_of_nextIsPower hin hpower)
    · exact hkeep.samples i hi
    · obtain ⟨code, rfl⟩ := eq_phase_of_decode hp heffect
      simp [nextIsPhase, hin] at hphase

end Sys2Proof.Machine
end
